-- ==== Sys2Proof/Word.lean ====
section
/-! DEFINITION. The two word types of the block (00_scope.md R6: BYTE_W = 8, CRC_W = 16). -/

namespace Sys2Proof

/-- A byte: an unsigned integer 0 to 255, bit 0 least significant (R11). -/
abbrev Byte := BitVec 8

/-- A 16-bit unsigned value: the CRC accumulators and the received trailer (R21, R29, R30). -/
abbrev Half := BitVec 16

end Sys2Proof
end

