-- ==== Sys2Proof/Config.lean ====
section
/-! DEFINITION. The parameters the spec leaves OPEN (00_scope.md R6; 93_implementation_defined.md U9, U10, U16). -/

namespace Sys2Proof

/-- A_TAG_POS ∈ {1, 2}: the offset of the variant A header byte that is "the tag" (R6, conflict C3). -/
inductive TagPos where
  | one
  | two
deriving DecidableEq, Repr, Inhabited

/-- The constants of a run (R6, R73, R249).
A catalog is a function from byte to Boolean; as plain data it is a table of 256 bits, bit t being the answer for tag t. -/
structure Params where
  /-- A_TAG_POS. -/
  aTagPos : TagPos
  /-- KNOWN_A. -/
  knownA : BitVec 256
  /-- KNOWN_B. -/
  knownB : BitVec 256
deriving DecidableEq, Repr, Inhabited

/-- The parameters of this machine, OPEN in the spec: nothing can be proved about their values
(DESIGN CHOICE, notes/assumptions/4.md). -/
opaque Config.params : Params

end Sys2Proof
end

