-- ==== Sys2Proof/Syntax.lean ====
section
/-! DEFINITION. Everything the opcode table encodes: the twelve operations (30_encoding.md R92) and the four
frame kinds (R80, R81, R87), one constructor per row of spec/opcode_table.json. -/

namespace Sys2Proof

/-- The direction operand of TX.BUILD_* (R93): H2D, host to device; D2H, device to host. -/
inductive Direction where
  | h2d
  | d2h
deriving DecidableEq, Repr

/-- The rows of the opcode table.
A frame carries its payload as a byte sequence; its `len` byte is the payload's length (R84). -/
inductive Instr where
  | sumInit
  | sumByte (b : Byte)
  | sumRead
  | crcInit
  | crcByte (b : Byte)
  | crcRead
  | txBuildA (d : Direction) (b1 b2 : Byte) (payload : List Byte)
  | txBuildB (d : Direction) (b1 b2 : Byte) (payload : List Byte)
  | rxStartA
  | rxStartB
  | rxByte (b : Byte)
  | rxShort
  | frameAD2H (tag field : Byte) (payload : List Byte) (checksum : Byte)
  | frameAH2D (tag field : Byte) (payload : List Byte) (checksum : Byte)
  | frameBD2H (op sequence : Byte) (payload : List Byte) (crcLo crcHi : Byte)
  | frameBH2D (op sequence : Byte) (payload : List Byte) (crcLo crcHi : Byte)
deriving DecidableEq, Repr

end Sys2Proof
end

