-- ==== Sys2Proof/WellFormed.lean ====
section
/-! DEFINITION. When an instruction has an encoding: a build's payload length fits its 16-bit count
(30_encoding.md R93), a frame's fits its `len` byte (R84, PAYLOAD_MAX of 00_scope.md R6). -/

namespace Sys2Proof

/-- The instruction can be written in the encoding of its row. -/
def Instr.wf : Instr → Bool
  | .sumInit => true
  | .sumByte _ => true
  | .sumRead => true
  | .crcInit => true
  | .crcByte _ => true
  | .crcRead => true
  | .txBuildA _ _ _ p => decide (p.length < 65536)
  | .txBuildB _ _ _ p => decide (p.length < 65536)
  | .rxStartA => true
  | .rxStartB => true
  | .rxByte _ => true
  | .rxShort => true
  | .frameAD2H _ _ p _ => decide (p.length < 256)
  | .frameAH2D _ _ p _ => decide (p.length < 256)
  | .frameBD2H _ _ p _ _ => decide (p.length < 256)
  | .frameBH2D _ _ p _ _ => decide (p.length < 256)

end Sys2Proof
end

