-- ==== Sys2Proof/Decode.lean ====
section
/-! DEFINITION. Decoding, total on any bytes, and the encoder, both written from 30_encoding.md
(R80, R81, R87 for frames; R92, R93, R94 for operations). -/

namespace Sys2Proof

/-- Why bytes are no instruction. -/
inductive Reject where
  /-- The bytes end before the instruction does. -/
  | incomplete
  /-- A code byte outside the table of R92 (R94). -/
  | reservedCode (code : Byte)
  /-- A direction operand other than 0x00 and 0x01 (R94). -/
  | reservedDirection (d : Byte)
  /-- Byte 0 on the wire is no frame kind (R90). -/
  | noFrameKind (b : Byte)
deriving DecidableEq, Repr

/-- What a decoder answers: an instruction with the bytes after it, or a rejection by name. -/
inductive Decoded where
  | instr (i : Instr) (rest : List Byte)
  | rejected (r : Reject)
deriving DecidableEq, Repr

/-- The twelve operations of R92. -/
inductive OpCode where
  | sumInit | sumByte | sumRead | crcInit | crcByte | crcRead
  | txBuildA | txBuildB | rxStartA | rxStartB | rxByte | rxShort
deriving DecidableEq, Repr

/-- The four frame kinds of R87. -/
inductive FrameKind where
  | aD2H | aH2D | bD2H | bH2D
deriving DecidableEq, Repr

/-- The command codes of R92. -/
def OpCode.toByte : OpCode → Byte
  | .sumInit => 0x10#8
  | .sumByte => 0x11#8
  | .sumRead => 0x12#8
  | .crcInit => 0x20#8
  | .crcByte => 0x21#8
  | .crcRead => 0x22#8
  | .txBuildA => 0x30#8
  | .txBuildB => 0x31#8
  | .rxStartA => 0x40#8
  | .rxStartB => 0x41#8
  | .rxByte => 0x42#8
  | .rxShort => 0x43#8

/-- The table of R92, row by row. -/
def OpCode.table : List OpCode :=
  [.sumInit, .sumByte, .sumRead, .crcInit, .crcByte, .crcRead,
   .txBuildA, .txBuildB, .rxStartA, .rxStartB, .rxByte, .rxShort]

/-- The operation a code byte stands for; any other code byte has no meaning (R94). -/
def OpCode.ofByte (c : Byte) : Option OpCode := OpCode.table.find? (fun op => decide (op.toByte = c))

/-- Byte 0 of each frame kind (R87). -/
def FrameKind.toByte : FrameKind → Byte
  | .aD2H => 0xF0#8
  | .aH2D => 0xF1#8
  | .bD2H => 0xFA#8
  | .bH2D => 0xFB#8

/-- The table of R87, row by row. -/
def FrameKind.table : List FrameKind := [.aD2H, .aH2D, .bD2H, .bH2D]

/-- The frame kind byte 0 selects (R87); the other 252 values select none (R90). -/
def FrameKind.ofByte (b : Byte) : Option FrameKind := FrameKind.table.find? (fun k => decide (k.toByte = b))

/-- The direction operand (R93). -/
def Direction.toByte : Direction → Byte
  | .h2d => 0x00#8
  | .d2h => 0x01#8

/-- The direction a `d` byte stands for; other values have no meaning (R94). -/
def Direction.ofByte (d : Byte) : Option Direction :=
  [Direction.h2d, Direction.d2h].find? (fun x => decide (x.toByte = d))

/-- The payload length of a build: n = n_lo + 256 × n_hi (R93). -/
def lengthOperand (nLo nHi : Byte) : Nat := nLo.toNat + 256 * nHi.toNat

/-- n_lo of a payload length (R93). -/
def lengthLo (n : Nat) : Byte := BitVec.ofNat 8 n

/-- n_hi of a payload length (R93). -/
def lengthHi (n : Nat) : Byte := BitVec.ofNat 8 (n / 256)

/-- An operation with one operand byte. -/
def decodeOneByte (mk : Byte → Instr) : List Byte → Decoded
  | b :: rest => .instr (mk b) rest
  | [] => .rejected .incomplete

/-- The operands of TX.BUILD_*: d, b1, b2, n_lo, n_hi, then n payload bytes (R93). -/
def decodeBuild (mk : Direction → Byte → Byte → List Byte → Instr) : List Byte → Decoded
  | d :: b1 :: b2 :: nLo :: nHi :: rest =>
    match Direction.ofByte d with
    | none => .rejected (.reservedDirection d)
    | some dir =>
      let n := lengthOperand nLo nHi
      if n ≤ rest.length then .instr (mk dir b1 b2 (rest.take n)) (rest.drop n)
      else .rejected .incomplete
  | _ => .rejected .incomplete

/-- The operand bytes of an operation (R92). -/
def decodeOperands : OpCode → List Byte → Decoded
  | .sumInit, bs => .instr .sumInit bs
  | .sumByte, bs => decodeOneByte .sumByte bs
  | .sumRead, bs => .instr .sumRead bs
  | .crcInit, bs => .instr .crcInit bs
  | .crcByte, bs => decodeOneByte .crcByte bs
  | .crcRead, bs => .instr .crcRead bs
  | .txBuildA, bs => decodeBuild .txBuildA bs
  | .txBuildB, bs => decodeBuild .txBuildB bs
  | .rxStartA, bs => .instr .rxStartA bs
  | .rxStartB, bs => .instr .rxStartB bs
  | .rxByte, bs => decodeOneByte .rxByte bs
  | .rxShort, bs => .instr .rxShort bs

/-- A command: one code byte followed by its operand bytes (R92); reserved codes are refused (R94). -/
def decodeCommand : List Byte → Decoded
  | [] => .rejected .incomplete
  | c :: rest =>
    match OpCode.ofByte c with
    | none => .rejected (.reservedCode c)
    | some op => decodeOperands op rest

/-- The bytes of a format A frame after byte 0: tag, field, len, payload, checksum (R80). -/
def decodeBodyA (mk : Byte → Byte → List Byte → Byte → Instr) : List Byte → Decoded
  | tag :: field :: len :: rest =>
    if len.toNat ≤ rest.length then
      match rest.drop len.toNat with
      | chk :: after => .instr (mk tag field (rest.take len.toNat) chk) after
      | [] => .rejected .incomplete
    else .rejected .incomplete
  | _ => .rejected .incomplete

/-- The bytes of a format B frame after byte 0: op, sequence, len, payload, crc16_lo, crc16_hi (R81). -/
def decodeBodyB (mk : Byte → Byte → List Byte → Byte → Byte → Instr) : List Byte → Decoded
  | op :: sequence :: len :: rest =>
    if len.toNat ≤ rest.length then
      match rest.drop len.toNat with
      | crcLo :: crcHi :: after => .instr (mk op sequence (rest.take len.toNat) crcLo crcHi) after
      | _ => .rejected .incomplete
    else .rejected .incomplete
  | _ => .rejected .incomplete

/-- The rest of a frame whose kind byte 0 selected (R87). -/
def decodeBody : FrameKind → List Byte → Decoded
  | .aD2H, bs => decodeBodyA .frameAD2H bs
  | .aH2D, bs => decodeBodyA .frameAH2D bs
  | .bD2H, bs => decodeBodyB .frameBD2H bs
  | .bH2D, bs => decodeBodyB .frameBH2D bs

/-- A frame on the wire: byte 0 selects the kind (R87), the `len` byte the length (R83). -/
def decodeFrame : List Byte → Decoded
  | [] => .rejected .incomplete
  | b :: rest =>
    match FrameKind.ofByte b with
    | none => .rejected (.noFrameKind b)
    | some k => decodeBody k rest

/-- The opcode table as a whole: a frame if byte 0 is a frame kind, else a command.
No byte is both (the table's sixteen codes differ). The machine's step reads its two ports with
`decodeCommand` and `decodeFrame`, so that a frame byte on the command port stays reserved (R94). -/
def decode : List Byte → Decoded
  | [] => .rejected .incomplete
  | c :: rest =>
    match FrameKind.ofByte c with
    | some k => decodeBody k rest
    | none => decodeCommand (c :: rest)

/-- The bytes of a build command (R92, R93). -/
def encodeBuild (op : OpCode) (d : Direction) (b1 b2 : Byte) (p : List Byte) : List Byte :=
  op.toByte :: d.toByte :: b1 :: b2 :: lengthLo p.length :: lengthHi p.length :: p

/-- The bytes of a frame (R80, R81): header, payload, trailer. -/
def encodeFrame (k : FrameKind) (b1 b2 : Byte) (p trailer : List Byte) : List Byte :=
  k.toByte :: b1 :: b2 :: BitVec.ofNat 8 p.length :: (p ++ trailer)

/-- The bytes of an instruction, from the same tables. -/
def encode : Instr → List Byte
  | .sumInit => [OpCode.sumInit.toByte]
  | .sumByte b => [OpCode.sumByte.toByte, b]
  | .sumRead => [OpCode.sumRead.toByte]
  | .crcInit => [OpCode.crcInit.toByte]
  | .crcByte b => [OpCode.crcByte.toByte, b]
  | .crcRead => [OpCode.crcRead.toByte]
  | .txBuildA d b1 b2 p => encodeBuild .txBuildA d b1 b2 p
  | .txBuildB d b1 b2 p => encodeBuild .txBuildB d b1 b2 p
  | .rxStartA => [OpCode.rxStartA.toByte]
  | .rxStartB => [OpCode.rxStartB.toByte]
  | .rxByte b => [OpCode.rxByte.toByte, b]
  | .rxShort => [OpCode.rxShort.toByte]
  | .frameAD2H tag field p chk => encodeFrame .aD2H tag field p [chk]
  | .frameAH2D tag field p chk => encodeFrame .aH2D tag field p [chk]
  | .frameBD2H op sequence p crcLo crcHi => encodeFrame .bD2H op sequence p [crcLo, crcHi]
  | .frameBH2D op sequence p crcLo crcHi => encodeFrame .bH2D op sequence p [crcLo, crcHi]

/-- How many bytes the instruction that starts a byte list has, bytes past the list's end read as 0 (R83, R92, R93);
1 where the first byte selects no row. -/
def encodedLength (bs : List Byte) : Nat :=
  match FrameKind.ofByte (bs.getD 0 0) with
  | some .aD2H => 5 + (bs.getD 3 0).toNat
  | some .aH2D => 5 + (bs.getD 3 0).toNat
  | some .bD2H => 6 + (bs.getD 3 0).toNat
  | some .bH2D => 6 + (bs.getD 3 0).toNat
  | none =>
    match OpCode.ofByte (bs.getD 0 0) with
    | some .sumByte => 2
    | some .crcByte => 2
    | some .rxByte => 2
    | some .txBuildA => 6 + lengthOperand (bs.getD 4 0) (bs.getD 5 0)
    | some .txBuildB => 6 + lengthOperand (bs.getD 4 0) (bs.getD 5 0)
    | _ => 1

/-- Byte k of a word numbered as spec/opcode_table.json numbers it: byte 0 is bits 7 to 0. -/
def wordByte (w k : Nat) : Byte := BitVec.ofNat 8 (w / 2 ^ (8 * k))

/-- The first n bytes of a word. -/
def wordBytes (w n : Nat) : List Byte := (List.range n).map (wordByte w)

/-- The bytes of the instruction whose low nbits are w and whose other bits are 0. -/
def tableBytes (nbits w : Nat) : List Byte :=
  let raw := wordBytes w ((nbits + 7) / 8)
  (raw ++ List.replicate (encodedLength raw - raw.length) 0#8).take (encodedLength raw)

/-- The instruction the decoder reads from an instruction whose bits are w. -/
def decodeTableWord (nbits w : Nat) : Option Instr :=
  match decode (tableBytes nbits w) with
  | .instr i _ => some i
  | .rejected _ => none

end Sys2Proof
end

