-- ==== Sys2Proof/Machine/State.lean ====
section
/-! DEFINITION. The machine's state as plain data, its stops, and the state after reset (10_state.md). -/

namespace Sys2Proof.Machine

/-- The protocol variant of a parse: RX_VAR, 0 for A and 1 for B (R2, R22). -/
inductive Variant where
  | a
  | b
deriving DecidableEq, Repr

/-- RX_ST, the stage of the parse (R36); the unused codes 6 and 7 are no values (U7). -/
inductive RxStage where
  | idle
  | awaitMarker
  | header
  | payload
  | trailer
  | done
deriving DecidableEq, Repr

/-- RX_RES, the result of the parse (R37): codes 0 to 5 of R200 and no others (U7). -/
inductive RxRes where
  | none
  | ok
  | truncated
  | wrongDirection
  | checksumMismatch
  | unknownTag
deriving DecidableEq, Repr

/-- TX_RES, the result of the last build (R38): codes 0, 1 and 8 of R200 and no others (U7). -/
inductive TxRes where
  | none
  | ok
  | payloadTooLarge
deriving DecidableEq, Repr

/-- The shared numbering of results (R200), with the two codes the block never raises (R205, R206). -/
inductive ResultKind where
  | none
  | ok
  | truncated
  | wrongDirection
  | checksumMismatch
  | unknownTag
  | malformedPayload
  | unsupportedPayloadType
  | payloadTooLarge
deriving DecidableEq, Repr

/-- One event of the receive stream (R66). -/
inductive RxEvent where
  | byte (b : Byte)
  | short
deriving DecidableEq, Repr

/-- What the outside does next (R7, R71, R240).
DESIGN CHOICE, notes/assumptions/1.md. -/
inductive Input where
  /-- A run of command bytes, the operations of host and transport in the order they are issued (R92). -/
  | command (bytes : List Byte)
  /-- A run of bytes arriving on the wire, frames and noise (R80, R81, R90). -/
  | wire (bytes : List Byte)
  /-- The transport's turn: it delivers the next event of RXS (R7, R66). -/
  | transport
  /-- Hardware reset (R240, R241). -/
  | reset
deriving DecidableEq, Repr

/-- The payload buffer as cells (index, byte), indices strictly rising; an index not listed has no value
(R31, R43, U3; DESIGN CHOICE, notes/assumptions/5.md). -/
abbrev Memory := List Host.Cell

/-- Everything the spec gives the machine. -/
structure State where
  /-- SUM, accumulator of the standalone sum unit (R20). -/
  sum : Byte
  /-- CRC, accumulator of the standalone CRC unit (R21). -/
  crc : Half
  /-- RX_VAR (R22, R34). -/
  rxVar : Variant
  /-- RX_ST (R36). -/
  rxSt : RxStage
  /-- RX_RES (R37). -/
  rxRes : RxRes
  /-- RX_CNT, bytes taken in the current stage (R23); at DONE, what it was when the parse ended (R214;
  notes/assumptions/8.md). -/
  rxCnt : Byte
  /-- RX_DIR, frame byte 0 as received (R24). -/
  rxDir : Byte
  /-- RX_B1, frame byte 1 (R25). -/
  rxB1 : Byte
  /-- RX_B2, frame byte 2 (R26). -/
  rxB2 : Byte
  /-- RX_LEN, frame byte 3 (R27). -/
  rxLen : Byte
  /-- RX_SUM, sum accumulator of the parser (R28). -/
  rxSum : Byte
  /-- RX_CRC, CRC accumulator of the parser (R29). -/
  rxCrc : Half
  /-- RX_CHK, the trailer as received (R30). -/
  rxChk : Half
  /-- RX_PBUF, the payload buffer (R31). -/
  rxPbuf : Memory
  /-- TX_RES (R38). -/
  txRes : TxRes
  /-- RXS, the events the transport has for the parser, next first (R66). -/
  rxs : List RxEvent
  /-- TXS, the bytes written so far, first byte first (R67). -/
  txs : List Byte
  /-- A_TAG_POS, KNOWN_A, KNOWN_B: constants of the run (R73, R243, R249); no step changes them. -/
  params : Params
  /-- The model's own: what the outside does next, in order (notes/assumptions/1.md). -/
  inputs : List Input
  /-- The model's own: the bytes the last operation returned (R8, R92; notes/assumptions/6.md). -/
  ret : List Byte
deriving DecidableEq, Repr

/-- Where the machine stops with a fault. -/
inductive Fault where
  /-- `step`, with a parse active, no event listed and nothing issued or the transport's turn: the parse waits for it
  (R10, R221, U12: stuck). Safe: the machine only stops where the hardware waits. -/
  | transportSilent
deriving DecidableEq, Repr

/-- Where what is presented is no step of the machine. Each is safe: nothing can be proved of what follows. -/
inductive Refusal where
  /-- `exec`, an instruction without a meaning (none in this model). Safe. -/
  | notModelled (mnemonic : String)
  /-- `step`, nothing issued and no parse active: the block has no step of its own (R7). Safe. -/
  | nothingIssued
  /-- `step`, command bytes that are no operation (R94, U5). Safe. -/
  | undecoded (r : Reject)
  /-- RX.START_A and RX.START_B in an active state are no step (R160, R248, U6). Safe. -/
  | parseActive
  /-- RX.BYTE, RX.SHORT and the transport's turn in IDLE and DONE are no step: the parser makes no read (R161, U8).
  Safe. -/
  | noReadPending
  /-- RX.BYTE and RX.SHORT when another event stands first in RXS: the stream is taken in order (R66, R71).
  Safe (notes/assumptions/2.md). -/
  | notNextEvent
deriving DecidableEq, Repr

/-- The state right after hardware reset: the table of R43 and R240.
The streams are the transport's and reset says nothing of them: nothing listed (notes/assumptions/10.md).
No entry of RX_PBUF has a value (notes/assumptions/5.md); the parameters are OPEN (notes/assumptions/4.md). -/
def State.reset : State where
  sum := 0x00#8
  crc := 0xFFFF#16
  rxVar := .a
  rxSt := .idle
  rxRes := .none
  rxCnt := 0#8
  rxDir := 0x00#8
  rxB1 := 0x00#8
  rxB2 := 0x00#8
  rxLen := 0x00#8
  rxSum := 0x00#8
  rxCrc := 0xFFFF#16
  rxChk := 0x0000#16
  rxPbuf := []
  txRes := .none
  rxs := []
  txs := []
  params := Config.params
  inputs := []
  ret := []

end Sys2Proof.Machine
end

