-- ==== Sys2Proof/Machine/Ops.lean ====
section
/-! DEFINITION. The named operations shared by the instructions: the two checksum functions, the payload buffer,
the streams, raising a result (the block's counterpart of taking an exception) and what returns from one, reset. -/

namespace Sys2Proof.Machine

/-! ## Bytes of a 16-bit value (R11) -/

/-- lo(c) = c[7:0]. -/
def lo (c : Half) : Byte := c.extractLsb' 0 8

/-- hi(c) = c[15:8]. -/
def hi (c : Half) : Byte := c.extractLsb' 8 8

/-- The 16-bit value with the given high and low bytes, {high, low} (R11, R85). -/
def joinHalf (high low : Byte) : Half := high ++ low

/-! ## The two checksum functions (R13) -/

/-- sum8(t, P) = (t + |P| + P[0] + … + P[|P|−1]) mod 256 (R110). -/
def sum8 (t : Byte) (p : List Byte) : Byte :=
  BitVec.ofNat 8 (t.toNat + p.length + (p.map BitVec.toNat).sum)

/-- CRC_INIT (R6). -/
def crcInitValue : Half := 0xFFFF#16

/-- CRC_POLY (R6). -/
def crcPoly : Half := 0xA001#16

/-- One iteration of the loop of R125: a logical shift right, then the polynomial if bit 0 was 1. -/
def crcShift (c : Half) : Half :=
  if c.getLsbD 0 then (c >>> 1) ^^^ crcPoly else c >>> 1

/-- n iterations of the loop of R125. -/
def crcShifts : Nat → Half → Half
  | 0, c => c
  | n + 1, c => crcShifts n (crcShift c)

/-- crc16_update(c, b) (R125): b enters the low byte, then eight iterations. -/
def crcUpdate (c : Half) (b : Byte) : Half := crcShifts 8 (c ^^^ b.setWidth 16)

/-- The accumulator after the bytes of a sequence, first byte first. -/
def crcFrom (c : Half) (q : List Byte) : Half := q.foldl crcUpdate c

/-- crc16(Q) (R126). -/
def crc16 (q : List Byte) : Half := crcFrom crcInitValue q

/-! ## The payload buffer (R12, R31, R40) -/

/-- PBUF_N (R6). -/
def pbufSize : Nat := 256

/-- RX_PBUF[i]; no value for an entry nothing has written (U3). -/
def Memory.read : Memory → Nat → Option Byte
  | [], _ => none
  | (k, v) :: m, i => if i = k then some v else Memory.read m i

/-- RX_PBUF[i] <- v, keeping the indices strictly rising. -/
def Memory.write : Memory → Nat → Byte → Memory
  | [], i, v => [(i, v)]
  | (k, w) :: m, i, v =>
    if i < k then (i, v) :: (k, w) :: m
    else if i = k then (i, v) :: m
    else (k, w) :: Memory.write m i v

/-- The canonical form: indices strictly rising and inside the buffer. -/
def Memory.wf (m : Memory) : Bool :=
  decide (m.Pairwise (fun x y => x.1 < y.1)) && m.all (fun c => decide (c.1 < pbufSize))

/-- [RX_PBUF[0], …, RX_PBUF[n − 1]], if every one of them has a value. -/
def Memory.readFirst (m : Memory) : Nat → Option (List Byte)
  | 0 => some []
  | n + 1 =>
    match Memory.readFirst m n, Memory.read m n with
    | some p, some b => some (p ++ [b])
    | _, _ => none

/-! ## The streams (R64, R66, R67) -/

/-- TXS <- TXS ++ Q (R12, R67). -/
def appendTxs (q : List Byte) (s : State) : State := { s with txs := s.txs ++ q }

/-- The next event of RXS is removed from the stream (R64). -/
def consume (s : State) : State := { s with rxs := s.rxs.tail }

/-- An event is the next one of RXS: it stands first, or nothing is listed and the event is the transport's
delivery itself (R66; DESIGN CHOICE, notes/assumptions/2.md). -/
def offers (e : RxEvent) (s : State) : Bool :=
  match s.rxs with
  | [] => true
  | x :: _ => decide (x = e)

/-- An operation returns bytes to the host, or nothing (R8, R92; notes/assumptions/6.md). -/
def reply (bs : List Byte) (s : State) : State := { s with ret := bs }

/-! ## Raising a result (R12, R214) and leaving one (R216) -/

/-- raise inside an RX rule: RX_RES takes the code and RX_ST takes DONE (R12, R214); every other register keeps its value
(R214), RX_CNT among them (DEDUCED against one sentence of R23: notes/assumptions/8.md). -/
def raiseRx (r : RxRes) (s : State) : State := { s with rxRes := r, rxSt := .done }

/-- raise inside a TX rule: TX_RES takes the code and nothing is appended to TXS (R12, R214); the one cause is
PayloadTooLarge (R207). -/
def raiseTx (r : TxRes) (s : State) : State := { s with txRes := r }

/-- RX.START_*: the step that clears a result and begins a parse (R160, R216). RX_PBUF is not written. -/
def startParse (v : Variant) (s : State) : State :=
  { s with
    rxVar := v
    rxSt := .awaitMarker
    rxRes := .none
    rxCnt := 0#8
    rxDir := 0x00#8
    rxB1 := 0x00#8
    rxB2 := 0x00#8
    rxLen := 0x00#8
    rxSum := 0x00#8
    rxCrc := crcInitValue
    rxChk := 0x0000#16 }

/-! ## Hardware reset (R240, R241) -/

/-- Reset puts every register of the block at its reset value and leaves the transport's streams alone (R241);
the constants stay (R249), and what the outside does next is not the block's. -/
def hardReset (s : State) : State :=
  { State.reset with rxs := s.rxs, txs := s.txs, params := s.params, inputs := s.inputs }

end Sys2Proof.Machine
end

