-- ==== Sys2Proof/Machine/Operands.lean ====
section
/-! DEFINITION. The operand forms: the direction byte, the tag byte of a frame, the bytes a checksum covers and
the bytes a frame is made of (30_encoding.md R80 to R89, 42_frame_encode.md R145, R146), and the catalogs. -/

namespace Sys2Proof.Machine

/-- Variant A's byte 0, host to device and device to host (R6, R146). -/
def markerA : Direction → Byte
  | .h2d => 0xF1#8
  | .d2h => 0xF0#8

/-- Variant B's byte 0, host to device and device to host (R6, R146). -/
def markerB : Direction → Byte
  | .h2d => 0xFB#8
  | .d2h => 0xFA#8

/-- The marker the parser of a variant accepts: the device-to-host one (R87, R163). -/
def acceptedMarker : Variant → Byte
  | .a => markerA .d2h
  | .b => markerB .d2h

/-- The variant A tag of the header bytes at offsets 1 and 2: the one at offset A_TAG_POS (R86, R91). -/
def tagOf (pos : TagPos) (b1 b2 : Byte) : Byte :=
  match pos with
  | .one => b1
  | .two => b2

/-- A_TAG_POS − 1: the RX_CNT at which the variant A tag is taken (R164). -/
def tagCount (pos : TagPos) : Byte :=
  match pos with
  | .one => 0#8
  | .two => 1#8

/-- KNOWN_A(t) (R6). -/
def knownA (p : Params) (t : Byte) : Bool := p.knownA.getLsbD t.toNat

/-- KNOWN_B(t) (R6). -/
def knownB (p : Params) (t : Byte) : Bool := p.knownB.getLsbD t.toNat

/-- The payload length as the `len` byte (R84); exact up to 255. -/
def lenByte (p : List Byte) : Byte := BitVec.ofNat 8 p.length

/-- The longest payload a frame can carry, PAYLOAD_MAX (R6, R149). -/
def payloadMax : Nat := 255

/-- Header and payload of a frame: [byte 0, byte 1, byte 2, len] ++ P. In format B these are the covered bytes (R89). -/
def headerAndPayload (m b1 b2 : Byte) (p : List Byte) : List Byte := [m, b1, b2, lenByte p] ++ p

/-- A variant A frame as TX.BUILD_A makes it (R147): the trailer is sum8 of the tag and the payload (R86, R88). -/
def frameA (pos : TagPos) (d : Direction) (b1 b2 : Byte) (p : List Byte) : List Byte :=
  headerAndPayload (markerA d) b1 b2 p ++ [sum8 (tagOf pos b1 b2) p]

/-- A variant B frame as TX.BUILD_B makes it (R148): the trailer is the CRC of the covered bytes, low byte first (R60, R85). -/
def frameB (d : Direction) (b1 b2 : Byte) (p : List Byte) : List Byte :=
  headerAndPayload (markerB d) b1 b2 p ++
    [lo (crc16 (headerAndPayload (markerB d) b1 b2 p)), hi (crc16 (headerAndPayload (markerB d) b1 b2 p))]

end Sys2Proof.Machine
end

