-- ==== Sys2Proof/Machine/Flags.lean ====
section
/-! DEFINITION. What is read of the state without storage of its own: the codes of the status registers
(R22, R36, R200), the flag-like values (R33), the position of the parser (R32) and the result port (R42). -/

namespace Sys2Proof.Machine

/-! ## Codes -/

/-- RX_VAR as its bit (R22). -/
def Variant.code : Variant → BitVec 1
  | .a => 0#1
  | .b => 1#1

/-- RX_ST as its 3-bit code (R36). -/
def RxStage.code : RxStage → BitVec 3
  | .idle => 0#3
  | .awaitMarker => 1#3
  | .header => 2#3
  | .payload => 3#3
  | .trailer => 4#3
  | .done => 5#3

/-- The shared numbering of results (R200). -/
def ResultKind.code : ResultKind → BitVec 4
  | .none => 0#4
  | .ok => 1#4
  | .truncated => 2#4
  | .wrongDirection => 3#4
  | .checksumMismatch => 4#4
  | .unknownTag => 5#4
  | .malformedPayload => 6#4
  | .unsupportedPayloadType => 7#4
  | .payloadTooLarge => 8#4

/-- RX_RES in the shared numbering (R37). -/
def RxRes.kind : RxRes → ResultKind
  | .none => .none
  | .ok => .ok
  | .truncated => .truncated
  | .wrongDirection => .wrongDirection
  | .checksumMismatch => .checksumMismatch
  | .unknownTag => .unknownTag

/-- TX_RES in the shared numbering (R38). -/
def TxRes.kind : TxRes → ResultKind
  | .none => .none
  | .ok => .ok
  | .payloadTooLarge => .payloadTooLarge

/-- TX_RES as the byte TX.BUILD_* returns (R92): the 4-bit code, zero-extended (notes/assumptions/7.md). -/
def TxRes.byte (r : TxRes) : Byte := r.kind.code.setWidth 8

/-! ## Flags (R33) -/

/-- The active states, 1 to 4 (R36). -/
def RxStage.isActive : RxStage → Bool
  | .idle => false
  | .awaitMarker => true
  | .header => true
  | .payload => true
  | .trailer => true
  | .done => false

/-- RX_DONE. -/
def rxDone (s : State) : Bool := decide (s.rxSt = .done)

/-- RX_FRAME_VALID: the frame passed its checksum. -/
def rxFrameValid (s : State) : Bool :=
  rxDone s && (decide (s.rxRes = .ok) || decide (s.rxRes = .unknownTag))

/-- RX_TAG_KNOWN. -/
def rxTagKnown (s : State) : Bool := rxDone s && decide (s.rxRes = .ok)

/-- RX_NO_FRAME: the absent-frame signal. -/
def rxNoFrame (s : State) : Bool := rxDone s && decide (s.rxRes = .truncated)

/-- RX_FAULT: a genuine fault. -/
def rxFault (s : State) : Bool :=
  rxDone s && (decide (s.rxRes = .wrongDirection) || decide (s.rxRes = .checksumMismatch)
    || decide (s.rxRes = .unknownTag))

/-- TX_OK. -/
def txOk (s : State) : Bool := decide (s.txRes = .ok)

/-! ## Position (R32) -/

/-- The offset in the frame of the byte the next RX.BYTE takes; none where no byte is taken. -/
def rxOffset (s : State) : Option Nat :=
  match s.rxSt with
  | .idle => none
  | .awaitMarker => some 0
  | .header => some (1 + s.rxCnt.toNat)
  | .payload => some (4 + s.rxCnt.toNat)
  | .trailer => some (4 + s.rxLen.toNat + s.rxCnt.toNat)
  | .done => none

/-! ## The result port (R42) -/

/-- The frame record. -/
structure FrameRecord where
  direction : Byte
  byte1 : Byte
  byte2 : Byte
  len : Byte
  payload : List Byte
  checksum : Half
deriving DecidableEq, Repr

/-- What the result port yields: a complete frame record at DONE with OK or UNKNOWN_TAG, else nothing (R42, R215, R247). -/
def frameRecord (s : State) : Option FrameRecord :=
  if rxFrameValid s then
    match Memory.readFirst s.rxPbuf s.rxLen.toNat with
    | some p => some ⟨s.rxDir, s.rxB1, s.rxB2, s.rxLen, p, s.rxChk⟩
    | none => none
  else none

end Sys2Proof.Machine
end

