-- ==== Sys2Proof/Machine/Crc.lean ====
section
/-! DEFINITION. The CRC-16/Modbus unit: CRC.INIT, CRC.BYTE, CRC.READ (41_crc16.md). -/

namespace Sys2Proof.Machine

/-- CRC.INIT (R128). -/
def execCrcInit (s : State) : Host.Outcome State Fault Refusal :=
  .next (reply [] { s with crc := crcInitValue })

/-- CRC.BYTE b (R129). -/
def execCrcByte (b : Byte) (s : State) : Host.Outcome State Fault Refusal :=
  .next (reply [] { s with crc := crcUpdate s.crc b })

/-- CRC.READ (R130): returns two bytes, low byte first. -/
def execCrcRead (s : State) : Host.Outcome State Fault Refusal :=
  .next (reply [lo s.crc, hi s.crc] s)

end Sys2Proof.Machine
end

