-- ==== Sys2Proof/Machine/Rx.lean ====
section
/-! DEFINITION. The frame parser: RX.START_A, RX.START_B, RX.BYTE, RX.SHORT (43_frame_decode.md). -/

namespace Sys2Proof.Machine

/-- The catalog's answer for the tag byte of the frame taken: KNOWN_A of the byte at A_TAG_POS, KNOWN_B of byte 1 (R91, R170). -/
def tagIsKnown (s : State) : Bool :=
  match s.rxVar with
  | .a => knownA s.params (tagOf s.params.aTagPos s.rxB1 s.rxB2)
  | .b => knownB s.params s.rxB1

/-- resolve(): the tag lookup of a frame whose checksum matched. It writes RX_RES and RX_ST only (R170), so RX_CNT stays
(vector P3; DEDUCED against one sentence of R23: notes/assumptions/8.md). -/
def resolve (s : State) : State :=
  { s with rxRes := (if tagIsKnown s then .ok else .unknownTag), rxSt := .done }

/-- A covered byte enters the accumulator of the parse's variant (R28, R29). -/
def accumulate (b : Byte) (s : State) : State :=
  match s.rxVar with
  | .a => { s with rxSum := s.rxSum + b }
  | .b => { s with rxCrc := crcUpdate s.rxCrc b }

/-- RX.BYTE b in AWAIT_MARKER (R163). -/
def takeMarker (b : Byte) (s : State) : State :=
  match s.rxVar with
  | .a =>
    if b = acceptedMarker .a then { s with rxDir := b, rxSt := .header, rxCnt := 0#8 } else s
  | .b =>
    if b = acceptedMarker .b then
      { s with rxDir := b, rxCrc := crcUpdate s.rxCrc b, rxSt := .header, rxCnt := 0#8 }
    else raiseRx .wrongDirection { s with rxDir := b }

/-- The header byte RX_CNT counts is latched (R164); a count above 2 latches nothing (notes/assumptions/9.md). -/
def latchHeader (b : Byte) (s : State) : State :=
  if s.rxCnt = 0#8 then { s with rxB1 := b }
  else if s.rxCnt = 1#8 then { s with rxB2 := b }
  else if s.rxCnt = 2#8 then { s with rxLen := b }
  else s

/-- The header byte RX_CNT counts is covered: all of them in variant B, the tag and the length in variant A (R88, R89, R164). -/
def headerCovered (s : State) : Bool :=
  match s.rxVar with
  | .a => decide (s.rxCnt = tagCount s.params.aTagPos) || decide (s.rxCnt = 2#8)
  | .b => true

/-- RX.BYTE b in HEADER (R164, R165). -/
def takeHeader (b : Byte) (s : State) : State :=
  let s1 := latchHeader b s
  let s2 := if headerCovered s then accumulate b s1 else s1
  if s.rxCnt.toNat < 2 then { s2 with rxCnt := s.rxCnt + 1#8 }
  else { s2 with rxCnt := 0#8, rxSt := (if b = 0x00#8 then .trailer else .payload) }

/-- RX.BYTE b in PAYLOAD (R166); the comparison with RX_LEN is made on integers. -/
def takePayload (b : Byte) (s : State) : State :=
  let s1 := accumulate b { s with rxPbuf := Memory.write s.rxPbuf s.rxCnt.toNat b }
  if s.rxCnt.toNat + 1 = s.rxLen.toNat then { s1 with rxCnt := 0#8, rxSt := .trailer }
  else { s1 with rxCnt := s.rxCnt + 1#8 }

/-- RX.BYTE b in TRAILER, variant A (R167). -/
def takeTrailerA (b : Byte) (s : State) : State :=
  let s1 := { s with rxChk := b.setWidth 16 }
  if b = s.rxSum then resolve s1 else raiseRx .checksumMismatch s1

/-- RX.BYTE b in TRAILER, variant B (R168): crc16_lo first, then crc16_hi and the comparison. -/
def takeTrailerB (b : Byte) (s : State) : State :=
  if s.rxCnt = 0#8 then { s with rxChk := joinHalf (hi s.rxChk) b, rxCnt := 1#8 }
  else
    let s1 := { s with rxChk := joinHalf b (lo s.rxChk) }
    if s1.rxChk = s.rxCrc then resolve s1 else raiseRx .checksumMismatch s1

/-- The effect of RX.BYTE b on the parser, by stage (R162); in IDLE and DONE no byte is taken (R161). -/
def takeByte (b : Byte) (s : State) : State :=
  match s.rxSt with
  | .idle => s
  | .awaitMarker => takeMarker b s
  | .header => takeHeader b s
  | .payload => takePayload b s
  | .trailer =>
    match s.rxVar with
    | .a => takeTrailerA b s
    | .b => takeTrailerB b s
  | .done => s

/-- The effect of an event of RXS on the parser (R66, R162, R169). -/
def takeEvent : RxEvent → State → State
  | .byte b, s => takeByte b s
  | .short, s => raiseRx .truncated s

/-- The transport answers the read of an active parser with the next event of RXS, one event and no more; without a
read or without an event nothing is taken (R7, R10, R66, R161). -/
def answerRead (s : State) : State :=
  if s.rxSt.isActive then
    match s.rxs with
    | e :: _ => takeEvent e (consume s)
    | [] => s
  else s

/-- Bytes arrive on the wire: they join the end of RXS, where the transport has them for the parser, and the read of an
active parser is answered (R66, R71; notes/assumptions/3.md). -/
def arrive (bs : List Byte) (s : State) : State := answerRead { s with rxs := s.rxs ++ bs.map .byte }

/-- RX.START_*: enabled in IDLE and DONE only (R160, R248). -/
def start (v : Variant) (s : State) : Host.Outcome State Fault Refusal :=
  if s.rxSt.isActive then .refused .parseActive else .next (reply [] (startParse v s))

/-- A transport event as an operation: enabled in the active states only (R161), and only as the next event of RXS,
which it consumes (R64, R66). -/
def deliver (e : RxEvent) (s : State) : Host.Outcome State Fault Refusal :=
  if s.rxSt.isActive then
    if offers e s then .next (reply [] (takeEvent e (consume s))) else .refused .notNextEvent
  else .refused .noReadPending

/-- RX.START_A (R160). -/
def execRxStartA (s : State) : Host.Outcome State Fault Refusal := start .a s

/-- RX.START_B (R160). -/
def execRxStartB (s : State) : Host.Outcome State Fault Refusal := start .b s

/-- RX.BYTE b (R162). -/
def execRxByte (b : Byte) (s : State) : Host.Outcome State Fault Refusal := deliver (.byte b) s

/-- RX.SHORT (R169). -/
def execRxShort (s : State) : Host.Outcome State Fault Refusal := deliver .short s

end Sys2Proof.Machine
end

