-- ==== Sys2Proof/Machine/Frame.lean ====
section
/-! DEFINITION. A frame of the opcode table as it meets the block: "The semantics of receiving a frame are the rules
of 43_frame_decode.md" (R87). Its bytes come onto the receive stream; an active parser takes one event of the stream in
this step and the others in steps of their own, as RX.BYTE (R7, R66); while no parse is active the frame waits in RXS
(R161; notes/assumptions/3.md). -/

namespace Sys2Proof.Machine

/-- FRAME.A.D2H (R80, R87): accepted by the parser after RX.START_A; its first byte is the marker of R163. -/
def execFrameAD2H (tag field : Byte) (p : List Byte) (chk : Byte) (s : State) : Host.Outcome State Fault Refusal :=
  .next (reply [] (arrive (encodeFrame .aD2H tag field p [chk]) s))

/-- FRAME.A.H2D (R80, R87): discarded as noise by the variant A parser. -/
def execFrameAH2D (tag field : Byte) (p : List Byte) (chk : Byte) (s : State) : Host.Outcome State Fault Refusal :=
  .next (reply [] (arrive (encodeFrame .aH2D tag field p [chk]) s))

/-- FRAME.B.D2H (R81, R87): accepted by the parser after RX.START_B; its first byte is the direction byte of R163. -/
def execFrameBD2H (op sequence : Byte) (p : List Byte) (crcLo crcHi : Byte) (s : State) :
    Host.Outcome State Fault Refusal :=
  .next (reply [] (arrive (encodeFrame .bD2H op sequence p [crcLo, crcHi]) s))

/-- FRAME.B.H2D (R81, R87): the variant B parser raises WRONG_DIRECTION at its first byte. -/
def execFrameBH2D (op sequence : Byte) (p : List Byte) (crcLo crcHi : Byte) (s : State) :
    Host.Outcome State Fault Refusal :=
  .next (reply [] (arrive (encodeFrame .bH2D op sequence p [crcLo, crcHi]) s))

end Sys2Proof.Machine
end

