-- ==== Sys2Proof/Machine/Sum.lean ====
section
/-! DEFINITION. The modular-sum unit: SUM.INIT, SUM.BYTE, SUM.READ (40_sum_checksum.md). -/

namespace Sys2Proof.Machine

/-- SUM.INIT (R112). -/
def execSumInit (s : State) : Host.Outcome State Fault Refusal :=
  .next (reply [] { s with sum := 0x00#8 })

/-- SUM.BYTE b (R113): SUM <- (SUM + b) mod 256. -/
def execSumByte (b : Byte) (s : State) : Host.Outcome State Fault Refusal :=
  .next (reply [] { s with sum := s.sum + b })

/-- SUM.READ (R114): returns SUM. -/
def execSumRead (s : State) : Host.Outcome State Fault Refusal :=
  .next (reply [s.sum] s)

end Sys2Proof.Machine
end

