-- ==== Sys2Proof/Machine/Tx.lean ====
section
/-! DEFINITION. The frame assembler: TX.BUILD_A, TX.BUILD_B (42_frame_encode.md). -/

namespace Sys2Proof.Machine

/-- A build of a frame for a payload: refused whole above 255 payload bytes (R149), else appended whole (R150).
It returns TX_RES (R92). -/
def build (frame payload : List Byte) (s : State) : State :=
  if payload.length > payloadMax then reply [TxRes.payloadTooLarge.byte] (raiseTx .payloadTooLarge s)
  else reply [TxRes.ok.byte] { appendTxs frame s with txRes := .ok }

/-- TX.BUILD_A d, b1, b2, P (R147). -/
def execTxBuildA (d : Direction) (b1 b2 : Byte) (p : List Byte) (s : State) : Host.Outcome State Fault Refusal :=
  .next (build (frameA s.params.aTagPos d b1 b2 p) p s)

/-- TX.BUILD_B d, b1, b2, P (R148). -/
def execTxBuildB (d : Direction) (b1 b2 : Byte) (p : List Byte) (s : State) : Host.Outcome State Fault Refusal :=
  .next (build (frameB d b1 b2 p) p s)

end Sys2Proof.Machine
end

