-- ==== Sys2Proof/Machine/Dispatch.lean ====
section
/-! DEFINITION. One arm per row of the opcode table. -/

namespace Sys2Proof.Machine

def exec (i : Instr) (s : State) : Host.Outcome State Fault Refusal :=
  match i with
  | .sumInit => Sys2Proof.Machine.execSumInit s
  | .sumByte b => Sys2Proof.Machine.execSumByte b s
  | .sumRead => Sys2Proof.Machine.execSumRead s
  | .crcInit => Sys2Proof.Machine.execCrcInit s
  | .crcByte b => Sys2Proof.Machine.execCrcByte b s
  | .crcRead => Sys2Proof.Machine.execCrcRead s
  | .txBuildA d b1 b2 payload => Sys2Proof.Machine.execTxBuildA d b1 b2 payload s
  | .txBuildB d b1 b2 payload => Sys2Proof.Machine.execTxBuildB d b1 b2 payload s
  | .rxStartA => Sys2Proof.Machine.execRxStartA s
  | .rxStartB => Sys2Proof.Machine.execRxStartB s
  | .rxByte b => Sys2Proof.Machine.execRxByte b s
  | .rxShort => Sys2Proof.Machine.execRxShort s
  | .frameAD2H tag field payload checksum => Sys2Proof.Machine.execFrameAD2H tag field payload checksum s
  | .frameAH2D tag field payload checksum => Sys2Proof.Machine.execFrameAH2D tag field payload checksum s
  | .frameBD2H op sequence payload crcLo crcHi => Sys2Proof.Machine.execFrameBD2H op sequence payload crcLo crcHi s
  | .frameBH2D op sequence payload crcLo crcHi => Sys2Proof.Machine.execFrameBH2D op sequence payload crcLo crcHi s

end Sys2Proof.Machine
end

