-- ==== Sys2Proof/Machine/Fetch.lean ====
section
/-! DEFINITION. How the next operation or event reaches the block: what is issued comes first, in order (R71, R246);
with nothing issued, an active parser pulls the next event of RXS (R66, R161). notes/assumptions/1.md. -/

namespace Sys2Proof.Machine

/-- What the next step is about. -/
inductive Fetched where
  /-- An instruction, and the state with its bytes taken from the inputs. -/
  | run (i : Instr) (s : State)
  /-- Wire bytes that are no frame, and the state with them taken from the inputs. -/
  | arrival (bs : List Byte) (s : State)
  /-- Hardware reset, and the state with it taken from the inputs. -/
  | reset (s : State)
  /-- The machine is stuck. -/
  | stuck (f : Fault)
  /-- No step. -/
  | noStep (r : Refusal)
deriving DecidableEq, Repr

/-- The inputs after the first instruction of a chunk: the chunk's remaining bytes, if any, then the other inputs. -/
def advance (chunk : List Byte → Input) (tail : List Byte) (rest : List Input) : List Input :=
  match tail with
  | [] => rest
  | b :: bs => chunk (b :: bs) :: rest

/-- The operation an event of RXS is (R66). -/
def RxEvent.instr : RxEvent → Instr
  | .byte b => .rxByte b
  | .short => .rxShort

/-- With nothing issued: an active parser pulls, and waits if the transport has nothing (R161, U12);
otherwise the block has no step of its own (R7, U8). -/
def fetchEvent (s : State) : Fetched :=
  if s.rxSt.isActive then
    match s.rxs with
    | e :: _ => .run e.instr s
    | [] => .stuck .transportSilent
  else .noStep .nothingIssued

/-- The transport's turn: the next event of RXS, which is a step where the parser reads (R161, R246). -/
def fetchTurn (rest : List Input) (s : State) : Fetched :=
  match s.rxs with
  | e :: _ => .run e.instr { s with inputs := rest }
  | [] => if s.rxSt.isActive then .stuck .transportSilent else .noStep .noReadPending

/-- Command bytes: an operation of R92 (R94 refuses the rest). -/
def fetchCommand (bs : List Byte) (rest : List Input) (s : State) : Fetched :=
  match decodeCommand bs with
  | .instr i tail => .run i { s with inputs := advance .command tail rest }
  | .rejected r => .noStep (.undecoded r)

/-- Wire bytes: a frame (R87), or bytes that are none and arrive as they are (R90; notes/assumptions/11.md). -/
def fetchWire (bs : List Byte) (rest : List Input) (s : State) : Fetched :=
  match decodeFrame bs with
  | .instr i tail => .run i { s with inputs := advance .wire tail rest }
  | .rejected _ => .arrival bs { s with inputs := rest }

/-- The next step's subject. -/
def fetch (s : State) : Fetched :=
  match s.inputs with
  | [] => fetchEvent s
  | .command bs :: rest => fetchCommand bs rest s
  | .wire bs :: rest => fetchWire bs rest s
  | .transport :: rest => fetchTurn rest s
  | .reset :: rest => .reset { s with inputs := rest }

/-- The transport has the event for the parser: it stands first in RXS, or is put there before another. -/
def present (e : RxEvent) (s : State) : State :=
  if offers e s then s else { s with rxs := e :: s.rxs }

/-- What an instruction needs beside its bytes: RX.BYTE and RX.SHORT are the next event of RXS (R66). -/
def presentFor : Instr → State → State
  | .rxByte b, s => present (.byte b) s
  | .rxShort, s => present .short s
  | _, s => s

/-- The bytes of an instruction as the next input: a frame on the wire, anything else on the command port. -/
def inputOf (bs : List Byte) : Input :=
  match FrameKind.ofByte (bs.getD 0 0) with
  | some _ => .wire bs
  | none => .command bs

/-- The bytes become what is fetched next; with them the event that the operation they encode takes. -/
def place (bs : List Byte) (s : State) : State :=
  match decode bs with
  | .instr i _ => presentFor i { s with inputs := inputOf bs :: s.inputs }
  | .rejected _ => { s with inputs := inputOf bs :: s.inputs }

end Sys2Proof.Machine
end

