-- ==== Sys2Proof/Machine/Step.lean ====
section
/-! DEFINITION. One step of the machine: fetch, then run. -/

namespace Sys2Proof.Machine

/-- One step: one operation, one event, one arrival or one reset, in the order they are issued (R7, R8, R71). -/
def step (s : State) : Host.Outcome State Fault Refusal :=
  match fetch s with
  | .run i t => exec i t
  | .arrival bs t => .next (reply [] (arrive bs t))
  | .reset t => .next (hardReset t)
  | .stuck f => .fault f
  | .noStep r => .refused r

/-- The instruction whose low nbits bits are w, its other bits 0, as the next thing fetched
(notes/assumptions/1.md says how a program comes to run from reset). -/
def State.withFetchWord (s : State) (nbits w : Nat) : State := place (tableBytes nbits w) s

end Sys2Proof.Machine
end

