-- ==== Sys2Proof/Machine/Pseudo.lean ====
section
/-! DEFINITION. The pseudo-operations of 30_encoding.md R96: sequences of operations, with no code of their own. -/

namespace Sys2Proof.Machine

/-- Go on from a next state; a fault or a refusal ends the sequence. -/
def andThen (o : Host.Outcome State Fault Refusal) (f : State → Host.Outcome State Fault Refusal) :
    Host.Outcome State Fault Refusal :=
  match o with
  | .next s => f s
  | .fault r => .fault r
  | .refused r => .refused r

/-- Operations one after another (R71). -/
def execAll : List Instr → State → Host.Outcome State Fault Refusal
  | [], s => .next s
  | i :: is, s => andThen (exec i s) (execAll is)

/-- SUM.FRAME t, P (R96). -/
def sumFrame (t : Byte) (p : List Byte) : List Instr :=
  [.sumInit, .sumByte t, .sumByte (lenByte p)] ++ p.map .sumByte ++ [.sumRead]

/-- CRC.BLOCK Q (R96). -/
def crcBlock (q : List Byte) : List Instr :=
  [.crcInit] ++ q.map .crcByte ++ [.crcRead]

/-- RX.BYTE Q[i] while RX_ST is active and bytes are left, then RX.SHORT if RX_ST is still active (R96). -/
def takeAll : List Byte → State → Host.Outcome State Fault Refusal
  | [], s => if s.rxSt.isActive then exec .rxShort s else .next s
  | b :: bs, s => if s.rxSt.isActive then andThen (exec (.rxByte b) s) (takeAll bs) else .next s

/-- RX.START_A or RX.START_B. -/
def startInstr : Variant → Instr
  | .a => .rxStartA
  | .b => .rxStartB

/-- TX.BUILD_A or TX.BUILD_B. -/
def buildInstr : Variant → Direction → Byte → Byte → List Byte → Instr
  | .a => .txBuildA
  | .b => .txBuildB

/-- RX.PARSE_A Q and RX.PARSE_B Q (R96): "the buffer is the stream and its end is a short read". -/
def parse (v : Variant) (q : List Byte) (s : State) : Host.Outcome State Fault Refusal :=
  andThen (exec (startInstr v) { s with rxs := q.map .byte }) (takeAll q)

end Sys2Proof.Machine
end

