-- ==== Sys2Proof/Safety.lean ====
section
/-! DEFINITION. The terms the statements use: the invariants of the rules (43_frame_decode.md R178, 10_state.md R23,
R24, R31, R37), the transport's fairness (00_scope.md R10), and what a parse of a whole buffer gives, in closed form
(R171, R172). -/

namespace Sys2Proof.Machine

/-- The header bytes taken so far, byte 0 first, when n bytes after byte 0 have been taken. -/
def headerTaken (s : State) (n : Nat) : List Byte := [s.rxDir] ++ [s.rxB1, s.rxB2, s.rxLen].take n

/-- The covered variant A header bytes among the first n after byte 0: the tag and the length (R88). -/
def coveredHeaderA (s : State) (n : Nat) : List Byte :=
  match s.params.aTagPos with
  | .one => (if 1 ≤ n then [s.rxB1] else []) ++ (if 3 ≤ n then [s.rxLen] else [])
  | .two => (if 2 ≤ n then [s.rxB2] else []) ++ (if 3 ≤ n then [s.rxLen] else [])

/-- The sum mod 256 of bytes. -/
def sumBytes (p : List Byte) : Byte := BitVec.ofNat 8 (p.map BitVec.toNat).sum

/-- The accumulator of the parse's variant holds the checksum of the bytes taken so far, trailer bytes apart: n header
bytes after byte 0 and the payload bytes p (R178 (c), (d)). The marker is the variant's (R24, R163). -/
def accumulated (s : State) (n : Nat) (p : List Byte) : Prop :=
  s.rxDir = acceptedMarker s.rxVar ∧
  match s.rxVar with
  | .a => s.rxSum = sumBytes (coveredHeaderA s n ++ p)
  | .b => s.rxCrc = crc16 (headerTaken s n ++ p)

/-- The stage's own part of the invariant. -/
def stageInv (s : State) : Prop :=
  match s.rxSt with
  | .idle => True
  | .awaitMarker => s.rxCnt = 0#8 ∧ s.rxSum = 0x00#8 ∧ s.rxCrc = crcInitValue ∧ s.rxChk = 0x0000#16
  | .header => s.rxCnt.toNat ≤ 2 ∧ s.rxChk = 0x0000#16 ∧ accumulated s s.rxCnt.toNat []
  | .payload =>
    s.rxCnt.toNat < s.rxLen.toNat ∧ s.rxChk = 0x0000#16 ∧
      ∃ p, Memory.readFirst s.rxPbuf s.rxCnt.toNat = some p ∧ accumulated s 3 p
  | .trailer =>
    s.rxCnt.toNat ≤ s.rxVar.code.toNat ∧ (s.rxCnt = 0#8 → s.rxChk = 0x0000#16) ∧ hi s.rxChk = 0x00#8 ∧
      ∃ p, Memory.readFirst s.rxPbuf s.rxLen.toNat = some p ∧ accumulated s 3 p
  | .done =>
    rxFrameValid s = true →
      ∃ p, Memory.readFirst s.rxPbuf s.rxLen.toNat = some p ∧ accumulated s 3 p ∧
        (s.rxRes = .ok ↔ tagIsKnown s = true) ∧
        match s.rxVar with
        | .a => s.rxChk = s.rxSum.setWidth 16
        | .b => s.rxChk = s.rxCrc

/-- What every step keeps: RX_RES = NONE exactly when RX_ST is not DONE (R37, R178 (a)); the counters stay in their
ranges (R178 (b)); the payload buffer is in canonical form and its entry 255 is never written (R31); the accumulators
hold the checksum of what was taken (R178 (c), (d)); an accepted frame's trailer is its checksum, and RX_RES = OK says
that its tag is known (R167, R168, R170). -/
def StateInv (s : State) : Prop :=
  (s.rxRes = .none ↔ s.rxSt ≠ .done) ∧
  Memory.wf s.rxPbuf = true ∧
  Memory.read s.rxPbuf 255 = none ∧
  stageInv s

/-- The four units of the block (R1, R45). -/
inductive Part where
  | sum
  | crc
  | tx
  | rx
deriving DecidableEq, Repr

/-- The unit an instruction works on. -/
def partOf : Instr → Part
  | .sumInit => .sum
  | .sumByte _ => .sum
  | .sumRead => .sum
  | .crcInit => .crc
  | .crcByte _ => .crc
  | .crcRead => .crc
  | .txBuildA _ _ _ _ => .tx
  | .txBuildB _ _ _ _ => .tx
  | .rxStartA => .rx
  | .rxStartB => .rx
  | .rxByte _ => .rx
  | .rxShort => .rx
  | .frameAD2H _ _ _ _ => .rx
  | .frameAH2D _ _ _ _ => .rx
  | .frameBD2H _ _ _ _ _ => .rx
  | .frameBH2D _ _ _ _ _ => .rx

/-- The rows of the opcode table that are frames (R87). -/
def isFrame : Instr → Bool
  | .sumInit => false
  | .sumByte _ => false
  | .sumRead => false
  | .crcInit => false
  | .crcByte _ => false
  | .crcRead => false
  | .txBuildA _ _ _ _ => false
  | .txBuildB _ _ _ _ => false
  | .rxStartA => false
  | .rxStartB => false
  | .rxByte _ => false
  | .rxShort => false
  | .frameAD2H _ _ _ _ => true
  | .frameAH2D _ _ _ _ => true
  | .frameBD2H _ _ _ _ _ => true
  | .frameBH2D _ _ _ _ _ => true

/-- The next event of RXS may be e: it stands first, or nothing is listed (R66; notes/assumptions/2.md). -/
def Offered (e : RxEvent) (s : State) : Prop := s.rxs = [] ∨ s.rxs.head? = some e

/-! ## Runs, and the transport's duty (R10) -/

/-- The outside adds to what is issued. -/
def issue (is : List Input) (s : State) : State := { s with inputs := s.inputs ++ is }

/-- A run that goes on for ever: before step n the outside adds the inputs `given n`, and every step answers a next
state. -/
def IsRun (given : Nat → List Input) (r : Nat → State) : Prop :=
  ∀ n, step (issue (given n) (r n)) = .next (r (n + 1))

/-- The instructions that bring an active parser an event: RX.BYTE, RX.SHORT and the frames. -/
def bringsEvent : Instr → Bool
  | .sumInit => false
  | .sumByte _ => false
  | .sumRead => false
  | .crcInit => false
  | .crcByte _ => false
  | .crcRead => false
  | .txBuildA _ _ _ _ => false
  | .txBuildB _ _ _ _ => false
  | .rxStartA => false
  | .rxStartB => false
  | .rxByte _ => true
  | .rxShort => true
  | .frameAD2H _ _ _ _ => true
  | .frameAH2D _ _ _ _ => true
  | .frameBD2H _ _ _ _ _ => true
  | .frameBH2D _ _ _ _ _ => true

/-- The step from a state answers the read of an active parser: an RX.BYTE or an RX.SHORT occurs in it. -/
def answersRead (s : State) : Bool :=
  match fetch s with
  | .run i _ => bringsEvent i
  | .arrival bs t => !(t.rxs ++ bs.map RxEvent.byte).isEmpty
  | .reset _ => false
  | .stuck _ => false
  | .noStep _ => false

/-- The transport's fairness (R10, U12): while RX_ST is an active state, RX.BYTE or RX.SHORT eventually occurs. A claim
that a parse ends names it as a premise. -/
def TransportFair (given : Nat → List Input) (r : Nat → State) : Prop :=
  ∀ n, (r n).rxSt.isActive = true →
    ∃ m, n ≤ m ∧ ((r m).rxSt.isActive = true → answersRead (issue (given m) (r m)) = true)

/-! ## Whole buffers -/

/-- Byte i of a sequence with its bit k flipped; the sequence itself where there is no byte i. -/
def flipBit (q : List Byte) (i k : Nat) : List Byte := q.modify i (fun b => b ^^^ (1#8 <<< k))

/-- What a parse of a buffer gives: the result, how many bytes it consumed, and the frame record. -/
structure ParseResult where
  res : RxRes
  consumed : Nat
  record : Option FrameRecord
deriving DecidableEq, Repr

/-- RX.PARSE_B of a buffer in closed form (R171, R172). -/
def closedB (params : Params) (q : List Byte) : ParseResult :=
  match q with
  | [] => ⟨.truncated, 0, none⟩
  | d :: _ =>
    if d ≠ 0xFA#8 then ⟨.wrongDirection, 1, none⟩
    else if q.length < 4 then ⟨.truncated, q.length, none⟩
    else
      let len := (q.getD 3 0).toNat
      if q.length < 6 + len then ⟨.truncated, q.length, none⟩
      else
        let chk := (q.getD (4 + len) 0).toNat + 256 * (q.getD (5 + len) 0).toNat
        if chk ≠ (crc16 (q.take (4 + len))).toNat then ⟨.checksumMismatch, 6 + len, none⟩
        else
          ⟨if knownB params (q.getD 1 0) then .ok else .unknownTag, 6 + len,
            some ⟨0xFA#8, q.getD 1 0, q.getD 2 0, q.getD 3 0, (q.drop 4).take len, BitVec.ofNat 16 chk⟩⟩

/-- The part of RX.PARSE_A from the marker on, k bytes having been discarded (R171, R172). -/
def closedFromMarkerA (params : Params) (k : Nat) (r : List Byte) : ParseResult :=
  if r.length < 4 then ⟨.truncated, k + r.length, none⟩
  else
    let len := (r.getD 3 0).toNat
    let tag := tagOf params.aTagPos (r.getD 1 0) (r.getD 2 0)
    if r.length < 5 + len then ⟨.truncated, k + r.length, none⟩
    else if r.getD (4 + len) 0 ≠ sum8 tag ((r.drop 4).take len) then ⟨.checksumMismatch, k + 5 + len, none⟩
    else
      ⟨if knownA params tag then .ok else .unknownTag, k + 5 + len,
        some ⟨0xF0#8, r.getD 1 0, r.getD 2 0, r.getD 3 0, (r.drop 4).take len, (r.getD (4 + len) 0).setWidth 16⟩⟩

/-- RX.PARSE_A of a buffer in closed form: the bytes before the first 0xF0 are discarded (R171, R172). -/
def closedA (params : Params) (q : List Byte) : ParseResult :=
  let k := (q.takeWhile (fun b => decide (b ≠ 0xF0#8))).length
  closedFromMarkerA params k (q.drop k)

/-- Either closed form. -/
def closed (v : Variant) (params : Params) (q : List Byte) : ParseResult :=
  match v with
  | .a => closedA params q
  | .b => closedB params q

end Sys2Proof.Machine
end

