-- ==== Sys2Proof/Certificates/Slice0/Obligations.lean ====
section
/-! DEFINITION. What is claimed of the machine, from the numbered rules of spec/; OBLIGATIONS.json lists it. -/

open Sys2Proof
open Sys2Proof.Machine

/-! ## Reset -/

/-- The state after reset is the table of 10_state.md R43 (the spec's own decision D9): every register of the block;
no operation is waiting (the model's choice, notes/assumptions/1.md). -/
def Obligations.ResetValuesOfTheRegisters : Prop :=
  State.reset.sum = 0x00#8 ∧ State.reset.crc = 0xFFFF#16 ∧ State.reset.rxVar.code = 0#1 ∧
  State.reset.rxSt = .idle ∧ State.reset.rxRes = .none ∧ State.reset.rxCnt = 0#8 ∧
  State.reset.rxDir = 0x00#8 ∧ State.reset.rxB1 = 0x00#8 ∧ State.reset.rxB2 = 0x00#8 ∧ State.reset.rxLen = 0x00#8 ∧
  State.reset.rxSum = 0x00#8 ∧ State.reset.rxCrc = 0xFFFF#16 ∧ State.reset.rxChk = 0x0000#16 ∧
  State.reset.txRes = .none ∧ (∀ n, Memory.read State.reset.rxPbuf n = none) ∧ State.reset.inputs = []

/-- Hardware reset, in any state, puts the block's registers at those values and leaves the streams, the constants and
what is still to come alone (70_reset_and_hazards.md R240, R241, R249; decision D9; as an input of the model:
notes/assumptions/10.md). -/
def Obligations.HardwareResetKeepsTheStreams : Prop :=
  ∀ (s : State) (rest : List Input), s.inputs = .reset :: rest →
    step s = .next { State.reset with rxs := s.rxs, txs := s.txs, params := s.params, inputs := rest }

/-! ## The modular-sum unit -/

/-- SUM.INIT (R112). -/
def Obligations.SumInitClearsSum : Prop :=
  ∀ (s : State) (rest : List Byte),
    decodeCommand (0x10#8 :: rest) = .instr .sumInit rest ∧
    exec .sumInit s = .next { s with sum := 0x00#8, ret := [] } ∧
    execAll [.sumInit, .sumInit] s = exec .sumInit s ∧
    execAll [.sumInit, .sumRead] s = .next { s with sum := 0x00#8, ret := [0x00#8] } ∧
    sum8 0x00#8 [] = 0x00#8

/-- SUM.BYTE b (R113; that the host orders the bytes is decision D5). -/
def Obligations.SumByteAddsModulo256 : Prop :=
  ∀ (s : State) (b : Byte) (rest : List Byte),
    decodeCommand (0x11#8 :: b :: rest) = .instr (.sumByte b) rest ∧
    exec (.sumByte b) s = .next { s with sum := BitVec.ofNat 8 ((s.sum.toNat + b.toNat) % 256), ret := [] } ∧
    exec (.sumByte 0x00#8) s = .next { s with ret := [] } ∧
    exec (.sumByte 0x01#8) { s with sum := 0xFF#8 } = .next { s with sum := 0x00#8, ret := [] } ∧
    exec (.sumByte 0xFF#8) { s with sum := 0xFF#8 } = .next { s with sum := 0xFE#8, ret := [] } ∧
    exec (.sumByte 0x04#8) { s with sum := 0xC1#8 } = .next { s with sum := 0xC5#8, ret := [] }

/-- SUM.READ (R114). -/
def Obligations.SumReadReturnsSum : Prop :=
  ∀ (s : State) (rest : List Byte),
    decodeCommand (0x12#8 :: rest) = .instr .sumRead rest ∧
    exec .sumRead s = .next { s with ret := [s.sum] } ∧
    execAll [.sumRead, .sumRead] s = exec .sumRead s ∧
    execAll [.sumInit, .sumByte 0xFF#8, .sumByte 0x02#8, .sumRead] s =
      .next { s with sum := 0x01#8, ret := [0x01#8] }

/-- Streaming equals the function: SUM.INIT and any bytes leave their sum, and the pseudo-operation SUM.FRAME returns
sum8 (R96, R115). -/
def Obligations.SumFrameReturnsSum8 : Prop :=
  ∀ (s : State) (t : Byte) (p q : List Byte),
    (∃ r, execAll (.sumInit :: q.map .sumByte) s =
      .next { s with sum := BitVec.ofNat 8 ((q.map BitVec.toNat).sum % 256), ret := r }) ∧
    (p.length ≤ 255 → execAll (sumFrame t p) s = .next { s with sum := sum8 t p, ret := [sum8 t p] })

/-- The sum's arithmetic: the unreduced sum is at most 65535, reducing after every addition gives the same value, and
the order of the payload bytes does not matter (R110, R111). -/
def Obligations.SumReducedStepwiseInAnyOrder : Prop :=
  ∀ (t : Byte) (p q : List Byte), p.length ≤ 255 →
    (sum8 t p).toNat = (t.toNat + p.length + (p.map BitVec.toNat).sum) % 256 ∧
    t.toNat + p.length + (p.map BitVec.toNat).sum ≤ 65535 ∧
    sum8 t p = p.foldl (· + ·) (t + BitVec.ofNat 8 p.length) ∧
    (p.Perm q → sum8 t p = sum8 t q)

/-- What the sum detects: one flipped bit of the tag or of a payload byte, always; what it does not: two flips of the
same bit position in opposite directions in two payload bytes (R116). -/
def Obligations.SumDetectsOneFlippedBit : Prop :=
  ∀ (t : Byte) (p : List Byte) (k : Nat), k < 8 →
    sum8 (t ^^^ (1#8 <<< k)) p ≠ sum8 t p ∧
    (∀ i, i < p.length → sum8 t (flipBit p i k) ≠ sum8 t p) ∧
    (∀ i j, i < p.length → j < p.length → (p.getD i 0).getLsbD k = true → (p.getD j 0).getLsbD k = false →
      sum8 t (flipBit (flipBit p i k) j k) = sum8 t p)

/-! ## The CRC unit -/

/-- CRC.INIT (R128). -/
def Obligations.CrcInitLoadsStartValue : Prop :=
  ∀ (s : State) (rest : List Byte),
    decodeCommand (0x20#8 :: rest) = .instr .crcInit rest ∧
    exec .crcInit s = .next { s with crc := 0xFFFF#16, ret := [] } ∧
    execAll [.crcInit, .crcInit] s = exec .crcInit s ∧
    execAll [.crcInit, .crcRead] s = .next { s with crc := 0xFFFF#16, ret := [0xFF#8, 0xFF#8] }

/-- CRC.BYTE b: the exclusive-or into the low byte, then eight shifts, each with the polynomial when bit 0 was 1
(R125, R129; the loop is the spec's passage G1). The loop is written out here. -/
def Obligations.CrcByteRunsTheLoop : Prop :=
  ∀ (s : State) (b : Byte) (rest : List Byte),
    decodeCommand (0x21#8 :: b :: rest) = .instr (.crcByte b) rest ∧
    exec (.crcByte b) s = .next
      { s with
        crc := (List.range 8).foldl
          (fun c _ => if c.getLsbD 0 = true then (c >>> 1) ^^^ 0xA001#16 else c >>> 1) (s.crc ^^^ b.setWidth 16)
        ret := [] } ∧
    exec (.crcByte 0x00#8) { s with crc := 0xFFFF#16 } = .next { s with crc := 0x40BF#16, ret := [] } ∧
    exec (.crcByte 0xFA#8) { s with crc := 0xFFFF#16 } = .next { s with crc := 0x033F#16, ret := [] } ∧
    exec (.crcByte 0xFF#8) { s with crc := 0xFFFF#16 } = .next { s with crc := 0x00FF#16, ret := [] }

/-- CRC.READ (R130): two bytes, low byte first. -/
def Obligations.CrcReadReturnsLowByteFirst : Prop :=
  ∀ (s : State) (rest : List Byte),
    decodeCommand (0x22#8 :: rest) = .instr .crcRead rest ∧
    exec .crcRead s =
      .next { s with ret := [BitVec.ofNat 8 (s.crc.toNat % 256), BitVec.ofNat 8 (s.crc.toNat / 256)] } ∧
    execAll [.crcRead, .crcRead] s = exec .crcRead s ∧
    execAll [.crcInit, .crcByte 0x00#8, .crcRead] s = .next { s with crc := 0x40BF#16, ret := [0xBF#8, 0x40#8] }

/-- Streaming equals the function: CRC.INIT and any bytes leave their crc16, and the pseudo-operation CRC.BLOCK returns
it low byte first (R96, R131). -/
def Obligations.CrcBlockReturnsCrc16 : Prop :=
  ∀ (s : State) (q : List Byte),
    (∃ r, execAll (.crcInit :: q.map .crcByte) s = .next { s with crc := crc16 q, ret := r }) ∧
    execAll (crcBlock q) s = .next { s with crc := crc16 q, ret := [lo (crc16 q), hi (crc16 q)] }

/-- The update is linear over exclusive-or, a bijection of the accumulator for a fixed byte, and keeps a non-zero
accumulator non-zero under zero bytes (R127). -/
def Obligations.CrcUpdateIsLinearAndBijective : Prop :=
  (∀ (c d : Half) (a b : Byte), crcUpdate (c ^^^ d) (a ^^^ b) = crcUpdate c a ^^^ crcUpdate d b) ∧
  (∀ b : Byte, Function.Bijective (fun c => crcUpdate c b)) ∧
  (∀ (c : Half) (n : Nat), c ≠ 0#16 → crcFrom c (List.replicate n 0x00#8) ≠ 0#16)

/-- A sequence with its own CRC after it, low byte first, has CRC 0 (R132). -/
def Obligations.CrcResidueIsZero : Prop :=
  ∀ q : List Byte, crc16 (q ++ [lo (crc16 q), hi (crc16 q)]) = 0x0000#16

/-- Two sequences of one length that differ in exactly one bit have different CRCs (R133). -/
def Obligations.CrcDetectsOneFlippedBit : Prop :=
  ∀ (q : List Byte) (i k : Nat), i < q.length → k < 8 → crc16 (flipBit q i k) ≠ crc16 q

/-- Values of crc16 the spec gives (95_test_vectors.md S2, V20 to V25, V26; conflict C1 for the single byte 0x00). -/
def Obligations.CrcOfTheTestVectors : Prop :=
  crc16 [] = 0xFFFF#16 ∧ crc16 [0x00#8] = 0x40BF#16 ∧ crc16 [0xFF#8] = 0x00FF#16 ∧ crc16 [0x01#8] = 0x807E#16 ∧
  crc16 [0x00#8, 0x00#8] = 0xB001#16 ∧
  crc16 [0x31#8, 0x32#8, 0x33#8, 0x34#8, 0x35#8, 0x36#8, 0x37#8, 0x38#8, 0x39#8] = 0x4B37#16 ∧
  crc16 [0x01#8, 0x03#8, 0x00#8, 0x00#8, 0x00#8, 0x0A#8] = 0xCDC5#16

/-! ## The frame assembler -/

/-- TX.BUILD_A (R147), whole: its encoding; above 255 payload bytes PayloadTooLarge and nothing else; else the frame
appended, with the sum of the tag at A_TAG_POS; the corner cases and the example, for both values of A_TAG_POS. The
returned TX_RES as one zero-extended byte is the model's choice, notes/assumptions/7.md. -/
def Obligations.TxBuildAAppendsTheFrame : Prop :=
  ∀ (s : State) (d : Direction) (b1 b2 : Byte) (p : List Byte),
    (∀ rest, p.length < 65536 →
      decodeCommand (0x30#8 :: (match d with | .h2d => 0x00#8 | .d2h => 0x01#8) :: b1 :: b2 ::
          BitVec.ofNat 8 (p.length % 256) :: BitVec.ofNat 8 (p.length / 256) :: (p ++ rest)) =
        .instr (.txBuildA d b1 b2 p) rest) ∧
    (p.length > 255 → exec (.txBuildA d b1 b2 p) s = .next { s with txRes := .payloadTooLarge, ret := [0x08#8] }) ∧
    (p.length ≤ 255 → exec (.txBuildA d b1 b2 p) s = .next
      { s with
        txs := s.txs ++
          ([(match d with | .h2d => 0xF1#8 | .d2h => 0xF0#8), b1, b2, BitVec.ofNat 8 p.length] ++ p ++
            [sum8 (match s.params.aTagPos with | .one => b1 | .two => b2) p])
        txRes := .ok
        ret := [0x01#8] }) ∧
    (p = [] → sum8 b1 p = b1) ∧
    (p.length = 255 → (frameA s.params.aTagPos d b1 b2 p).length = 260) ∧
    (∀ (e : Direction) (c : Byte), s.params.aTagPos = .one →
      (frameA s.params.aTagPos d b1 b2 p).getLast? = (frameA s.params.aTagPos e b1 c p).getLast?) ∧
    (∀ (e : Direction) (c : Byte), s.params.aTagPos = .two →
      (frameA s.params.aTagPos d b1 b2 p).getLast? = (frameA s.params.aTagPos e c b2 p).getLast?) ∧
    exec (.txBuildA .h2d 0xB1#8 0xC1#8 [0x33#8, 0x33#8, 0xF3#8, 0x3F#8]) s = .next
      { s with
        txs := s.txs ++ [0xF1#8, 0xB1#8, 0xC1#8, 0x04#8, 0x33#8, 0x33#8, 0xF3#8, 0x3F#8,
          match s.params.aTagPos with | .one => 0x4D#8 | .two => 0x5D#8]
        txRes := .ok
        ret := [0x01#8] }

/-- TX.BUILD_B (R148), whole: its encoding; above 255 payload bytes PayloadTooLarge and nothing else; else header and
payload appended with their CRC, low byte first; the corner cases (the direction byte is covered, so the two directions
have different CRCs) and the example. The returned TX_RES as one zero-extended byte is the model's choice,
notes/assumptions/7.md. -/
def Obligations.TxBuildBAppendsTheFrame : Prop :=
  ∀ (s : State) (d : Direction) (b1 b2 : Byte) (p : List Byte),
    (∀ rest, p.length < 65536 →
      decodeCommand (0x31#8 :: (match d with | .h2d => 0x00#8 | .d2h => 0x01#8) :: b1 :: b2 ::
          BitVec.ofNat 8 (p.length % 256) :: BitVec.ofNat 8 (p.length / 256) :: (p ++ rest)) =
        .instr (.txBuildB d b1 b2 p) rest) ∧
    (p.length > 255 → exec (.txBuildB d b1 b2 p) s = .next { s with txRes := .payloadTooLarge, ret := [0x08#8] }) ∧
    (p.length ≤ 255 → ∃ h : List Byte,
      h = [(match d with | .h2d => 0xFB#8 | .d2h => 0xFA#8), b1, b2, BitVec.ofNat 8 p.length] ++ p ∧
      exec (.txBuildB d b1 b2 p) s = .next
        { s with
          txs := s.txs ++ (h ++ [BitVec.ofNat 8 ((crc16 h).toNat % 256), BitVec.ofNat 8 ((crc16 h).toNat / 256)])
          txRes := .ok
          ret := [0x01#8] }) ∧
    (p = [] → (frameB d b1 b2 p).length = 6) ∧
    (p.length = 255 → (frameB d b1 b2 p).length = 261) ∧
    crc16 (0xFB#8 :: b1 :: b2 :: BitVec.ofNat 8 p.length :: p) ≠
      crc16 (0xFA#8 :: b1 :: b2 :: BitVec.ofNat 8 p.length :: p) ∧
    exec (.txBuildB .d2h 0x20#8 0x01#8 [0x01#8]) s = .next
      { s with
        txs := s.txs ++ [0xFA#8, 0x20#8, 0x01#8, 0x01#8, 0x01#8, 0x66#8, 0x44#8]
        txRes := .ok
        ret := [0x01#8] }

/-- PAYLOAD_TOO_LARGE has one cause, a build with more than 255 payload bytes, and it records nothing besides the code
(R207). -/
def Obligations.PayloadTooLargeHasOneCause : Prop :=
  ∀ (s : State) (v : Variant) (d : Direction) (b1 b2 : Byte) (p : List Byte),
    ∃ t, exec (buildInstr v d b1 b2 p) s = .next t ∧
      (t.txRes = .payloadTooLarge ↔ p.length > 255) ∧
      (p.length > 255 → t = { s with txRes := .payloadTooLarge, ret := t.ret }) ∧
      t.txRes.kind.code = (if p.length > 255 then 8#4 else 1#4)

/-- What the assembler appends is a frame of its kind as the wire formats lay it out (R80, R81, R83, R84, R86, R89). -/
def Obligations.BuiltFramesDecodeAsFrames : Prop :=
  ∀ (pos : TagPos) (b1 b2 : Byte) (p rest : List Byte), p.length ≤ 255 →
    decodeFrame (frameA pos .d2h b1 b2 p ++ rest) = .instr (.frameAD2H b1 b2 p (sum8 (tagOf pos b1 b2) p)) rest ∧
    decodeFrame (frameA pos .h2d b1 b2 p ++ rest) = .instr (.frameAH2D b1 b2 p (sum8 (tagOf pos b1 b2) p)) rest ∧
    (∃ c : Half, c = crc16 ([0xFA#8, b1, b2, BitVec.ofNat 8 p.length] ++ p) ∧
      decodeFrame (frameB .d2h b1 b2 p ++ rest) = .instr (.frameBD2H b1 b2 p (lo c) (hi c)) rest) ∧
    (∃ c : Half, c = crc16 ([0xFB#8, b1, b2, BitVec.ofNat 8 p.length] ++ p) ∧
      decodeFrame (frameB .h2d b1 b2 p ++ rest) = .instr (.frameBH2D b1 b2 p (lo c) (hi c)) rest) ∧
    (frameA pos .d2h b1 b2 p).length = 5 + p.length ∧ (frameA pos .h2d b1 b2 p).length = 5 + p.length ∧
    (frameB .d2h b1 b2 p).length = 6 + p.length ∧ (frameB .h2d b1 b2 p).length = 6 + p.length

/-! ## The frame parser, operation by operation -/

/-- RX.START_A and RX.START_B (R160): their encodings; in IDLE and DONE they begin a parse and RX_PBUF is not written;
in an active state they are no step. -/
def Obligations.RxStartBeginsAParse : Prop :=
  ∀ (s : State) (rest : List Byte),
    decodeCommand (0x40#8 :: rest) = .instr .rxStartA rest ∧
    decodeCommand (0x41#8 :: rest) = .instr .rxStartB rest ∧
    (s.rxSt = .idle ∨ s.rxSt = .done →
      exec .rxStartA s = .next
        { s with
          rxVar := .a, rxSt := .awaitMarker, rxRes := .none, rxCnt := 0#8, rxDir := 0x00#8, rxB1 := 0x00#8,
          rxB2 := 0x00#8, rxLen := 0x00#8, rxSum := 0x00#8, rxCrc := 0xFFFF#16, rxChk := 0x0000#16, ret := [] } ∧
      exec .rxStartB s = .next
        { s with
          rxVar := .b, rxSt := .awaitMarker, rxRes := .none, rxCnt := 0#8, rxDir := 0x00#8, rxB1 := 0x00#8,
          rxB2 := 0x00#8, rxLen := 0x00#8, rxSum := 0x00#8, rxCrc := 0xFFFF#16, rxChk := 0x0000#16, ret := [] }) ∧
    (s.rxSt = .awaitMarker ∨ s.rxSt = .header ∨ s.rxSt = .payload ∨ s.rxSt = .trailer →
      exec .rxStartA s = .refused .parseActive ∧ exec .rxStartB s = .refused .parseActive)

/-- RX.BYTE and RX.SHORT are steps in the active states only, where they take the next event of RXS; in IDLE and DONE
the parser makes no read (R161; decision D11; that RX.BYTE b needs b to be the next listed event is the model's reading of
R66, notes/assumptions/2.md). -/
def Obligations.TransportEventsOnlyWhileActive : Prop :=
  ∀ (s : State) (b : Byte),
    (s.rxSt = .idle ∨ s.rxSt = .done →
      exec (.rxByte b) s = .refused .noReadPending ∧ exec .rxShort s = .refused .noReadPending) ∧
    (s.rxSt = .awaitMarker ∨ s.rxSt = .header ∨ s.rxSt = .payload ∨ s.rxSt = .trailer →
      (Offered (.byte b) s → ∃ t, exec (.rxByte b) s = .next t ∧ t.rxs = s.rxs.tail) ∧
      (¬ Offered (.byte b) s → exec (.rxByte b) s = .refused .notNextEvent) ∧
      (Offered .short s → ∃ t, exec .rxShort s = .next t ∧ t.rxs = s.rxs.tail) ∧
      (¬ Offered .short s → exec .rxShort s = .refused .notNextEvent))

/-- RX.BYTE b in AWAIT_MARKER (R163): variant A scans for 0xF0 and discards the rest without a trace, variant B requires
0xFA as the first byte and raises WrongDirection otherwise. -/
def Obligations.RxByteAwaitingTheMarker : Prop :=
  ∀ (s : State) (b : Byte), s.rxSt = .awaitMarker → Offered (.byte b) s →
    (s.rxVar = .a → b = 0xF0#8 → exec (.rxByte b) s = .next
      { s with rxs := s.rxs.tail, ret := [], rxDir := b, rxSt := .header, rxCnt := 0#8 }) ∧
    (s.rxVar = .a → b ≠ 0xF0#8 → exec (.rxByte b) s = .next { s with rxs := s.rxs.tail, ret := [] }) ∧
    (s.rxVar = .b → b = 0xFA#8 → exec (.rxByte b) s = .next
      { s with
        rxs := s.rxs.tail, ret := [], rxDir := b, rxCrc := crcUpdate s.rxCrc b, rxSt := .header, rxCnt := 0#8 }) ∧
    (s.rxVar = .b → b ≠ 0xFA#8 → exec (.rxByte b) s = .next
      { s with rxs := s.rxs.tail, ret := [], rxDir := b, rxRes := .wrongDirection, rxSt := .done }) ∧
    crcUpdate 0xFFFF#16 0xFA#8 = 0x033F#16

/-- RX.BYTE b in HEADER (R164), every byte value in every header position: the latch RX_CNT selects, the accumulator of
the variant, the count, and the stage after the length byte. -/
def Obligations.RxByteInTheHeader : Prop :=
  ∀ (s : State) (b : Byte), s.rxSt = .header → s.rxCnt.toNat ≤ 2 → Offered (.byte b) s →
    exec (.rxByte b) s = .next
      { s with
        rxs := s.rxs.tail
        ret := []
        rxB1 := if s.rxCnt.toNat = 0 then b else s.rxB1
        rxB2 := if s.rxCnt.toNat = 1 then b else s.rxB2
        rxLen := if s.rxCnt.toNat = 2 then b else s.rxLen
        rxCrc := if s.rxVar = .b then crcUpdate s.rxCrc b else s.rxCrc
        rxSum :=
          if s.rxVar = .a ∧ (s.rxCnt.toNat = (match s.params.aTagPos with | .one => 0 | .two => 1) ∨ s.rxCnt.toNat = 2)
          then s.rxSum + b else s.rxSum
        rxCnt := if s.rxCnt.toNat < 2 then s.rxCnt + 1#8 else 0#8
        rxSt := if s.rxCnt.toNat < 2 then .header else if b = 0x00#8 then .trailer else .payload } ∧
    crcUpdate 0x033F#16 0x20#8 = 0xC842#16 ∧ crcUpdate 0xC842#16 0x01#8 = 0xF189#16 ∧
    crcUpdate 0xF189#16 0x01#8 = 0x66F1#16

/-- RX.BYTE b in PAYLOAD (R166): entry RX_CNT of the payload buffer takes the byte and no other entry changes; the
accumulator of the variant takes it; after the last payload byte the trailer comes. -/
def Obligations.RxByteInThePayload : Prop :=
  ∀ (s : State) (b : Byte), s.rxSt = .payload → s.rxCnt.toNat < s.rxLen.toNat → Offered (.byte b) s →
    (∃ m : Memory,
      exec (.rxByte b) s = .next
        { s with
          rxs := s.rxs.tail
          ret := []
          rxPbuf := m
          rxCrc := if s.rxVar = .b then crcUpdate s.rxCrc b else s.rxCrc
          rxSum := if s.rxVar = .a then s.rxSum + b else s.rxSum
          rxCnt := if s.rxCnt.toNat + 1 = s.rxLen.toNat then 0#8 else s.rxCnt + 1#8
          rxSt := if s.rxCnt.toNat + 1 = s.rxLen.toNat then .trailer else .payload } ∧
      Memory.read m s.rxCnt.toNat = some b ∧
      ∀ i, i ≠ s.rxCnt.toNat → Memory.read m i = Memory.read s.rxPbuf i) ∧
    crcUpdate 0x66F1#16 0x01#8 = 0x4466#16

/-- RX.BYTE b in TRAILER, variant A (R167, R170): the byte is latched and compared with RX_SUM; a match asks KNOWN_A for
the byte at A_TAG_POS. -/
def Obligations.RxByteInTheTrailerA : Prop :=
  ∀ (s : State) (b : Byte), s.rxSt = .trailer → s.rxVar = .a → Offered (.byte b) s →
    exec (.rxByte b) s = .next
      { s with
        rxs := s.rxs.tail
        ret := []
        rxChk := b.setWidth 16
        rxSt := .done
        rxRes :=
          if b ≠ s.rxSum then .checksumMismatch
          else if knownA s.params (match s.params.aTagPos with | .one => s.rxB1 | .two => s.rxB2) = true then .ok
          else .unknownTag }

/-- RX.BYTE b in TRAILER, variant B (R168, R170): crc16_lo is latched first, with no check; then crc16_hi completes
RX_CHK, all 16 bits are compared with RX_CRC, and a match asks KNOWN_B for byte 1.
That RX_CNT stays 1 at DONE is deduced from R168, R214 and vector P3 against a sentence of R23, notes/assumptions/8.md. -/
def Obligations.RxByteInTheTrailerB : Prop :=
  ∀ (s : State) (b : Byte), s.rxSt = .trailer → s.rxVar = .b → Offered (.byte b) s →
    (s.rxCnt = 0#8 → exec (.rxByte b) s = .next
      { s with
        rxs := s.rxs.tail, ret := [], rxCnt := 1#8,
        rxChk := BitVec.ofNat 16 (b.toNat + 256 * (s.rxChk.toNat / 256)) }) ∧
    (s.rxCnt ≠ 0#8 → ∃ c : Half, c.toNat = s.rxChk.toNat % 256 + 256 * b.toNat ∧
      exec (.rxByte b) s = .next
        { s with
          rxs := s.rxs.tail
          ret := []
          rxChk := c
          rxSt := .done
          rxRes :=
            if c ≠ s.rxCrc then .checksumMismatch
            else if knownB s.params s.rxB1 = true then .ok else .unknownTag })

/-- RX.SHORT (R169): in an active state the parse ends TRUNCATED and no other register changes.
That RX_CNT stays at DONE is deduced from R169, R214 and vector P3 against a sentence of R23, notes/assumptions/8.md. -/
def Obligations.RxShortTruncates : Prop :=
  ∀ (s : State) (rest : List Byte),
    decodeCommand (0x43#8 :: rest) = .instr .rxShort rest ∧
    (s.rxSt = .awaitMarker ∨ s.rxSt = .header ∨ s.rxSt = .payload ∨ s.rxSt = .trailer → Offered .short s →
      exec .rxShort s = .next { s with rxs := s.rxs.tail, ret := [], rxRes := .truncated, rxSt := .done }) ∧
    (s.rxSt = .idle ∨ s.rxSt = .done → exec .rxShort s = .refused .noReadPending)

/-! ## The parser as a whole -/

/-- The invariant holds after reset. -/
def Obligations.InvariantHoldsAtReset : Prop := StateInv State.reset

/-- Every step keeps the invariant (R178 (a) to (d), R31, R37, R167, R168, R170), from every state that meets it. -/
def Obligations.StepKeepsTheInvariant : Prop :=
  ∀ s t : State, StateInv s → step s = .next t → StateInv t

/-- The transition table (R177): an operation that is a step makes one of its transitions, and the other operations make
none. -/
def Obligations.TransitionsAreThoseOfTheTable : Prop :=
  ∀ (s t : State) (i : Instr), StateInv s → isFrame i = false → exec i s = .next t →
    match i with
    | .rxStartA | .rxStartB =>
      (s.rxSt = .idle ∨ s.rxSt = .done) ∧ t.rxSt = .awaitMarker ∧ t.rxRes = .none
    | .rxShort =>
      (s.rxSt = .awaitMarker ∨ s.rxSt = .header ∨ s.rxSt = .payload ∨ s.rxSt = .trailer) ∧
      t.rxSt = .done ∧ t.rxRes = .truncated
    | .rxByte b =>
      (s.rxSt = .awaitMarker ∧ s.rxVar = .a ∧ b ≠ 0xF0#8 ∧ t.rxSt = .awaitMarker ∧ t.rxRes = .none) ∨
      (s.rxSt = .awaitMarker ∧ s.rxVar = .a ∧ b = 0xF0#8 ∧ t.rxSt = .header ∧ t.rxRes = .none) ∨
      (s.rxSt = .awaitMarker ∧ s.rxVar = .b ∧ b = 0xFA#8 ∧ t.rxSt = .header ∧ t.rxRes = .none) ∨
      (s.rxSt = .awaitMarker ∧ s.rxVar = .b ∧ b ≠ 0xFA#8 ∧ t.rxSt = .done ∧ t.rxRes = .wrongDirection) ∨
      (s.rxSt = .header ∧ s.rxCnt.toNat < 2 ∧ t.rxSt = .header ∧ t.rxRes = .none) ∨
      (s.rxSt = .header ∧ s.rxCnt.toNat = 2 ∧ b ≠ 0x00#8 ∧ t.rxSt = .payload ∧ t.rxRes = .none) ∨
      (s.rxSt = .header ∧ s.rxCnt.toNat = 2 ∧ b = 0x00#8 ∧ t.rxSt = .trailer ∧ t.rxRes = .none) ∨
      (s.rxSt = .payload ∧ s.rxCnt.toNat + 1 < s.rxLen.toNat ∧ t.rxSt = .payload ∧ t.rxRes = .none) ∨
      (s.rxSt = .payload ∧ s.rxCnt.toNat + 1 = s.rxLen.toNat ∧ t.rxSt = .trailer ∧ t.rxRes = .none) ∨
      (s.rxSt = .trailer ∧ s.rxVar = .b ∧ s.rxCnt = 0#8 ∧ t.rxSt = .trailer ∧ t.rxRes = .none) ∨
      (s.rxSt = .trailer ∧ (s.rxVar = .b → s.rxCnt = 1#8) ∧ t.rxSt = .done ∧
        t.rxRes =
          if t.rxChk ≠ (match s.rxVar with | .a => s.rxSum.setWidth 16 | .b => s.rxCrc) then .checksumMismatch
          else if tagIsKnown s = true then .ok else .unknownTag)
    | _ => t.rxSt = s.rxSt ∧ t.rxRes = s.rxRes

/-- RX.PARSE_B of any buffer, from any state with no parse active, gives the closed form of R171, consumes what R172
says, and touches nothing outside the parser. -/
def Obligations.ParseBMatchesTheClosedForm : Prop :=
  ∀ (s : State) (q : List Byte), s.rxSt = .idle ∨ s.rxSt = .done →
    ∃ t, parse .b q s = .next t ∧ t.rxSt = .done ∧ t.rxRes = (closedB s.params q).res ∧
      t.rxs = (q.drop (closedB s.params q).consumed).map .byte ∧
      frameRecord t = (closedB s.params q).record ∧
      t.sum = s.sum ∧ t.crc = s.crc ∧ t.txRes = s.txRes ∧ t.txs = s.txs ∧ t.params = s.params

/-- RX.PARSE_A of any buffer, from any state with no parse active, gives the closed form of R171, consumes what R172
says, and touches nothing outside the parser; for both values of A_TAG_POS. -/
def Obligations.ParseAMatchesTheClosedForm : Prop :=
  ∀ (s : State) (q : List Byte), s.rxSt = .idle ∨ s.rxSt = .done →
    ∃ t, parse .a q s = .next t ∧ t.rxSt = .done ∧ t.rxRes = (closedA s.params q).res ∧
      t.rxs = (q.drop (closedA s.params q).consumed).map .byte ∧
      frameRecord t = (closedA s.params q).record ∧
      t.sum = s.sum ∧ t.crc = s.crc ∧ t.txRes = s.txRes ∧ t.txs = s.txs ∧ t.params = s.params

/-- Round trip (R152): what TX.BUILD_A D2H or TX.BUILD_B D2H appends, parsed under the same variant, gives the frame
record of its operands, OK or UNKNOWN_TAG by the catalog, and nothing is left over. -/
def Obligations.BuiltFrameParsesBack : Prop :=
  ∀ (s : State) (v : Variant) (b1 b2 : Byte) (p : List Byte), p.length ≤ 255 → s.rxSt = .idle ∨ s.rxSt = .done →
    ∃ u f t, exec (buildInstr v .d2h b1 b2 p) s = .next u ∧ u.txs = s.txs ++ f ∧
      parse v f u = .next t ∧ t.rxSt = .done ∧ t.rxs = [] ∧
      t.rxRes = (if (match v with
        | .a => knownA s.params (tagOf s.params.aTagPos b1 b2)
        | .b => knownB s.params b1) = true then .ok else .unknownTag) ∧
      frameRecord t = some
        ⟨(match v with | .a => 0xF0#8 | .b => 0xFA#8), b1, b2, BitVec.ofNat 8 p.length, p,
          (match v with
          | .a => (sum8 (tagOf s.params.aTagPos b1 b2) p).setWidth 16
          | .b => crc16 ([0xFA#8, b1, b2, BitVec.ofNat 8 p.length] ++ p))⟩

/-- A frame built host to device is not accepted by the parser of its variant (R152, R253): variant B raises
WRONG_DIRECTION at its first byte, variant A discards it whole unless a byte of it is 0xF0. -/
def Obligations.HostToDeviceFrameIsNotAccepted : Prop :=
  ∀ (s : State) (b1 b2 : Byte) (p : List Byte), p.length ≤ 255 → s.rxSt = .idle ∨ s.rxSt = .done →
    (∃ t, parse .b (frameB .h2d b1 b2 p) s = .next t ∧ t.rxRes = .wrongDirection ∧ t.rxDir = 0xFB#8 ∧
      t.rxs = ((frameB .h2d b1 b2 p).drop 1).map .byte ∧ frameRecord t = none) ∧
    (0xF0#8 ∉ frameA s.params.aTagPos .h2d b1 b2 p →
      ∃ t, parse .a (frameA s.params.aTagPos .h2d b1 b2 p) s = .next t ∧ t.rxRes = .truncated ∧ t.rxs = [] ∧
        frameRecord t = none)

/-- Every proper prefix of a valid frame is TRUNCATED, never a frame (R179). -/
def Obligations.ProperPrefixesAreTruncated : Prop :=
  ∀ (s : State) (b1 b2 : Byte) (p : List Byte) (k : Nat), p.length ≤ 255 → s.rxSt = .idle ∨ s.rxSt = .done →
    (k < (frameB .d2h b1 b2 p).length →
      ∃ t, parse .b ((frameB .d2h b1 b2 p).take k) s = .next t ∧ t.rxRes = .truncated ∧ t.rxs = [] ∧
        frameRecord t = none) ∧
    (k < (frameA s.params.aTagPos .d2h b1 b2 p).length →
      ∃ t, parse .a ((frameA s.params.aTagPos .d2h b1 b2 p).take k) s = .next t ∧ t.rxRes = .truncated ∧ t.rxs = [] ∧
        frameRecord t = none)

/-- One flipped bit of a valid variant B frame (R213): in dir, WRONG_DIRECTION; in op, sequence, a payload byte or a CRC
byte, CHECKSUM_MISMATCH; in len upwards, TRUNCATED when the stream ends with the frame. -/
def Obligations.OneFlippedBitInAVariantBFrame : Prop :=
  ∀ (s : State) (b1 b2 : Byte) (p : List Byte) (i k : Nat), p.length ≤ 255 → s.rxSt = .idle ∨ s.rxSt = .done → k < 8 →
    ∃ t, parse .b (flipBit (frameB .d2h b1 b2 p) i k) s = .next t ∧
      (i = 0 → t.rxRes = .wrongDirection) ∧
      (i = 1 ∨ i = 2 ∨ (4 ≤ i ∧ i < 6 + p.length) → t.rxRes = .checksumMismatch) ∧
      (i = 3 → (BitVec.ofNat 8 p.length).getLsbD k = false → t.rxRes = .truncated) ∧
      (i < 3 ∨ (4 ≤ i ∧ i < 6 + p.length) → frameRecord t = none)

/-- One flipped bit of a valid variant A frame (R116, R213): in the tag, a payload byte or the checksum,
CHECKSUM_MISMATCH; in the header byte that is not covered, not detected at all; in the marker, TRUNCATED unless a later
byte is 0xF0; in len upwards, TRUNCATED when the stream ends with the frame. -/
def Obligations.OneFlippedBitInAVariantAFrame : Prop :=
  ∀ (s : State) (b1 b2 : Byte) (p : List Byte) (i k : Nat), p.length ≤ 255 → s.rxSt = .idle ∨ s.rxSt = .done → k < 8 →
    ∃ t, parse .a (flipBit (frameA s.params.aTagPos .d2h b1 b2 p) i k) s = .next t ∧
      (i = (match s.params.aTagPos with | .one => 1 | .two => 2) ∨ (4 ≤ i ∧ i < 5 + p.length) →
        t.rxRes = .checksumMismatch) ∧
      (i = (match s.params.aTagPos with | .one => 2 | .two => 1) →
        t.rxRes = (if knownA s.params (tagOf s.params.aTagPos b1 b2) = true then .ok else .unknownTag)) ∧
      (i = 0 → 0xF0#8 ∉ (frameA s.params.aTagPos .d2h b1 b2 p).drop 1 → t.rxRes = .truncated) ∧
      (i = 3 → (BitVec.ofNat 8 p.length).getLsbD k = false → t.rxRes = .truncated)

/-- The outcome of a parse does not depend on anything that came before it (R44): from two states that agree on the
constants only, one buffer gives the same registers of the parser, leftover stream and frame record. -/
def Obligations.ParseDoesNotDependOnThePast : Prop :=
  ∀ (s u : State) (v : Variant) (q : List Byte),
    (s.rxSt = .idle ∨ s.rxSt = .done) → (u.rxSt = .idle ∨ u.rxSt = .done) → s.params = u.params →
    ∃ t w, parse v q s = .next t ∧ parse v q u = .next w ∧
      t.rxVar = w.rxVar ∧ t.rxSt = w.rxSt ∧ t.rxRes = w.rxRes ∧ t.rxCnt = w.rxCnt ∧ t.rxDir = w.rxDir ∧
      t.rxB1 = w.rxB1 ∧ t.rxB2 = w.rxB2 ∧ t.rxLen = w.rxLen ∧ t.rxSum = w.rxSum ∧ t.rxCrc = w.rxCrc ∧
      t.rxChk = w.rxChk ∧ t.rxs = w.rxs ∧ frameRecord t = frameRecord w

/-- A parse cannot run for ever on a stream that keeps delivering bytes (R178 (e)): once its marker is taken, and in
variant B from the start, 261 bytes are enough to end it, whatever they are. -/
def Obligations.ParseEndsWithin261Bytes : Prop :=
  ∀ (s : State) (q : List Byte), StateInv s → s.rxSt.isActive = true → s.rxVar = .b ∨ s.rxSt ≠ .awaitMarker → s.rxs = [] →
    q.length = 261 → ∃ n t, n ≤ 261 ∧ execAll ((q.take n).map .rxByte) s = .next t ∧ t.rxSt = .done

/-- The exception R178 (e) names: a variant A scan that never meets 0xF0 takes any number of bytes and keeps no trace of
them (R163). -/
def Obligations.VariantAScanDiscardsNoise : Prop :=
  ∀ (s : State) (q : List Byte), s.rxSt = .awaitMarker → s.rxVar = .a → s.rxs = q.map .byte → 0xF0#8 ∉ q →
    ∃ r, execAll (q.map .rxByte) s = .next { s with rxs := [], ret := r }

/-- What the result port yields (R42, R167, R168, R170): a record exactly when the frame is valid, complete, with the
variant's marker, a trailer that is the checksum of the record, and RX_RES = OK exactly when its tag is known. -/
def Obligations.AcceptedFramesVerify : Prop :=
  ∀ s : State, StateInv s →
    (frameRecord s ≠ none ↔ s.rxSt = .done ∧ (s.rxRes = .ok ∨ s.rxRes = .unknownTag)) ∧
    ∀ r, frameRecord s = some r →
      r.direction = s.rxDir ∧ r.byte1 = s.rxB1 ∧ r.byte2 = s.rxB2 ∧ r.len = s.rxLen ∧ r.checksum = s.rxChk ∧
      r.payload.length = r.len.toNat ∧
      (∀ i, i < r.len.toNat → Memory.read s.rxPbuf i = r.payload[i]?) ∧
      (s.rxVar = .a → r.direction = 0xF0#8 ∧
        r.checksum = (sum8 (tagOf s.params.aTagPos r.byte1 r.byte2) r.payload).setWidth 16 ∧
        (s.rxRes = .ok ↔ knownA s.params (tagOf s.params.aTagPos r.byte1 r.byte2) = true)) ∧
      (s.rxVar = .b → r.direction = 0xFA#8 ∧
        r.checksum = crc16 ([r.direction, r.byte1, r.byte2, r.len] ++ r.payload) ∧
        (s.rxRes = .ok ↔ knownB s.params r.byte1 = true))

/-! ## Frames as they arrive -/

/-- A frame row is its bytes coming onto RXS and, in an active parse, one event taken, the one that then stands first; its
other bytes are taken one a step (R7, R66, R87, R96, R175; the frame as one instruction is the model's choice,
notes/assumptions/3.md). From its arrival on, a run makes the RX.BYTE operations the parse has use for, and the rest stays
in RXS. -/
def Obligations.FrameIsItsBytesOneByOne : Prop :=
  ∀ (s : State) (i : Instr), isFrame i = true → s.rxSt.isActive = true →
    (∀ e es, s.rxs ++ (encode i).map .byte = e :: es →
      exec i s = exec e.instr { s with rxs := e :: es } ∧ ∃ t, exec i s = .next t ∧ t.rxs = es) ∧
    (i.wf = true → s.rxs = [] → ∃ n u, 1 ≤ n ∧ n ≤ (encode i).length ∧
      execAll (((encode i).take n).map .rxByte) { s with inputs := [] } = .next u ∧
      Host.Core.run core n { s with inputs := [.wire (encode i)] } =
        .next { u with rxs := ((encode i).drop n).map .byte } ∧
      (n < (encode i).length → u.rxSt.isActive = false))

/-- A device-to-host frame (R87): in AWAIT_MARKER of its variant the row takes the first byte and leaves the others in RXS;
after the start of a parse of its variant a run takes it whole, a byte a step: its checksum decides, then the catalog
(the frame as one instruction and the inputs are the model's choice, notes/assumptions/3.md and 1.md). -/
def Obligations.DeviceToHostFramesAreTaken : Prop :=
  ∀ (s : State) (b1 b2 chk crcLo crcHi : Byte) (p : List Byte), s.rxs = [] →
    (s.rxSt = .awaitMarker → s.rxVar = .a → exec (.frameAD2H b1 b2 p chk) s = .next
      { s with
        rxDir := 0xF0#8, rxSt := .header, rxCnt := 0#8, ret := []
        rxs := ((encode (.frameAD2H b1 b2 p chk)).drop 1).map .byte }) ∧
    (s.rxSt = .awaitMarker → s.rxVar = .b → exec (.frameBD2H b1 b2 p crcLo crcHi) s = .next
      { s with
        rxDir := 0xFA#8, rxCrc := crcUpdate s.rxCrc 0xFA#8, rxSt := .header, rxCnt := 0#8, ret := []
        rxs := ((encode (.frameBD2H b1 b2 p crcLo crcHi)).drop 1).map .byte }) ∧
    (s.rxSt = .idle ∨ s.rxSt = .done → p.length ≤ 255 →
      (∃ t : State, Host.Core.run core (6 + p.length)
          { s with inputs := [.command [0x40#8], .wire (encode (.frameAD2H b1 b2 p chk))] } = .next t ∧
        t.rxSt = .done ∧ t.rxs = [] ∧ t.inputs = [] ∧ t.rxChk = chk.setWidth 16 ∧
        t.rxRes = (if chk ≠ sum8 (tagOf s.params.aTagPos b1 b2) p then .checksumMismatch
          else if knownA s.params (tagOf s.params.aTagPos b1 b2) = true then .ok else .unknownTag)) ∧
      (∃ t : State, Host.Core.run core (7 + p.length)
          { s with inputs := [.command [0x41#8], .wire (encode (.frameBD2H b1 b2 p crcLo crcHi))] } = .next t ∧
        t.rxSt = .done ∧ t.rxs = [] ∧ t.inputs = [] ∧ t.rxChk.toNat = crcLo.toNat + 256 * crcHi.toNat ∧
        t.rxRes = (if t.rxChk ≠ crc16 ([0xFA#8, b1, b2, BitVec.ofNat 8 p.length] ++ p) then .checksumMismatch
          else if knownB s.params b1 = true then .ok else .unknownTag)))

/-- A host-to-device frame is accepted by nothing (R87): the variant A parser discards its marker, and a run discards it
whole, a byte a step (a later 0xF0 in it apart); the variant B parser raises WRONG_DIRECTION at its first byte and leaves
the rest in the stream (the frame as one instruction and the inputs are the model's choice, notes/assumptions/3.md and
1.md). -/
def Obligations.HostToDeviceFramesAreNotTaken : Prop :=
  ∀ (s : State) (b1 b2 chk crcLo crcHi : Byte) (p : List Byte), s.rxSt = .awaitMarker → s.rxs = [] →
    (s.rxVar = .a →
      exec (.frameAH2D b1 b2 p chk) s = .next
        { s with ret := [], rxs := ((encode (.frameAH2D b1 b2 p chk)).drop 1).map .byte } ∧
      (p.length ≤ 255 → 0xF0#8 ∉ encode (.frameAH2D b1 b2 p chk) →
        Host.Core.run core (5 + p.length) { s with inputs := [.wire (encode (.frameAH2D b1 b2 p chk))] } =
          .next { s with ret := [], inputs := [] })) ∧
    (s.rxVar = .b → exec (.frameBH2D b1 b2 p crcLo crcHi) s = .next
      { s with
        rxDir := 0xFB#8, rxRes := .wrongDirection, rxSt := .done, ret := []
        rxs := ((encode (.frameBH2D b1 b2 p crcLo crcHi)).drop 1).map .byte })

/-- A frame that arrives while no parse is active waits in RXS, behind what is there (R161; decision D11). -/
def Obligations.FramesWaitWhileNoParseIsActive : Prop :=
  ∀ (s : State) (i : Instr), isFrame i = true → s.rxSt = .idle ∨ s.rxSt = .done →
    exec i s = .next { s with rxs := s.rxs ++ (encode i).map .byte, ret := [] }

/-! ## Whole-machine rules -/

/-- The four units share no writable state (R45, R74, R250): operations of two different units can be exchanged. -/
def Obligations.UnitsDoNotDisturbEachOther : Prop :=
  ∀ (i j : Instr) (s t : State), partOf i ≠ partOf j → execAll [i, j] s = .next t →
    ∃ u, execAll [j, i] s = .next u ∧ { u with ret := [] } = { t with ret := [] }

/-- No step changes A_TAG_POS, KNOWN_A or KNOWN_B (R73, R249; that State carries them is the model's choice,
notes/assumptions/4.md). -/
def Obligations.ConstantsStayConstant : Prop :=
  ∀ s t : State, step s = .next t → t.params = s.params

/-- TXS only grows, and only by one whole frame of a build (R64, R149, R150). -/
def Obligations.TransmitStreamGrowsByWholeFrames : Prop :=
  ∀ s t : State, step s = .next t →
    t.txs = s.txs ∨
    ∃ d b1 b2 p, p.length ≤ 255 ∧
      (t.txs = s.txs ++ frameA s.params.aTagPos d b1 b2 p ∨ t.txs = s.txs ++ frameB d b1 b2 p)

/-- The receive stream is taken in order, no event skipped, duplicated or put back, and one event at a time (R7, R64,
R71): an instruction leaves what was there, less at most the first event, a frame row's bytes after it
(notes/assumptions/3.md); so does every step. -/
def Obligations.ReceiveStreamIsTakenInOrder : Prop :=
  (∀ (s t : State) (i : Instr), exec i s = .next t →
    ∃ taken, s.rxs ++ (if isFrame i = true then (encode i).map .byte else []) = taken ++ t.rxs ∧ taken.length ≤ 1) ∧
  (∀ s t : State, step s = .next t → ∃ taken arrived, s.rxs ++ arrived = taken ++ t.rxs ∧ taken.length ≤ 1 ∧
    ((∀ bs rest, s.inputs ≠ .wire bs :: rest) → arrived = []))

/-- A result stays until the next call replaces it (R35, R217; decision D7): no instruction but RX.START_* changes the
result of a parse that is DONE or its record, and none but a build changes TX_RES. Of the steps, hardware reset clears both;
any other step keeps the parse's result unless it is RX.START_*, and none takes TX_RES back to NONE. -/
def Obligations.ResultsStayUntilTheNextCall : Prop :=
  (∀ (s t : State) (i : Instr), exec i s = .next t →
    (s.rxSt = .done → i ≠ .rxStartA → i ≠ .rxStartB →
      t.rxSt = .done ∧ t.rxRes = s.rxRes ∧ frameRecord t = frameRecord s) ∧
    (partOf i ≠ .tx → t.txRes = s.txRes)) ∧
  (∀ s t : State, step s = .next t → (∀ rest, s.inputs ≠ .reset :: rest) →
    (s.rxSt = .done → (∀ u, fetch s ≠ .run .rxStartA u ∧ fetch s ≠ .run .rxStartB u) →
      t.rxSt = .done ∧ t.rxRes = s.rxRes ∧ frameRecord t = frameRecord s) ∧
    (t.txRes = .none → s.txRes = .none))

/-- The numeric codes of RX_VAR, RX_ST and of the results (R22, R36, R200; decisions D7, D8). -/
def Obligations.StatusCodes : Prop :=
  (∀ v : Variant, v.code = (match v with | .a => 0#1 | .b => 1#1)) ∧
  (∀ st : RxStage, st.code =
    (match st with
    | .idle => 0#3 | .awaitMarker => 1#3 | .header => 2#3 | .payload => 3#3 | .trailer => 4#3 | .done => 5#3)) ∧
  (∀ r : RxRes, r.kind.code =
    (match r with
    | .none => 0#4 | .ok => 1#4 | .truncated => 2#4 | .wrongDirection => 3#4 | .checksumMismatch => 4#4
    | .unknownTag => 5#4)) ∧
  (∀ r : TxRes, r.kind.code = (match r with | .none => 0#4 | .ok => 1#4 | .payloadTooLarge => 8#4)) ∧
  ResultKind.malformedPayload.code = 6#4 ∧ ResultKind.unsupportedPayloadType.code = 7#4

/-- The flag-like values are functions of the status registers (R33). -/
def Obligations.FlagsAreFunctionsOfTheStatus : Prop :=
  ∀ s : State,
    (rxDone s = true ↔ s.rxSt = .done) ∧
    (rxFrameValid s = true ↔ s.rxSt = .done ∧ (s.rxRes = .ok ∨ s.rxRes = .unknownTag)) ∧
    (rxTagKnown s = true ↔ s.rxSt = .done ∧ s.rxRes = .ok) ∧
    (rxNoFrame s = true ↔ s.rxSt = .done ∧ s.rxRes = .truncated) ∧
    (rxFault s = true ↔
      s.rxSt = .done ∧ (s.rxRes = .wrongDirection ∨ s.rxRes = .checksumMismatch ∨ s.rxRes = .unknownTag)) ∧
    (txOk s = true ↔ s.txRes = .ok)

/-- The standalone units are accepted in every state and raise nothing; RX.START_*, where it is enabled, raises nothing
(R208). -/
def Obligations.StandaloneUnitsRaiseNothing : Prop :=
  ∀ (s : State) (i : Instr),
    (partOf i = .sum ∨ partOf i = .crc →
      ∃ t, exec i s = .next t ∧ t.rxRes = s.rxRes ∧ t.rxSt = s.rxSt ∧ t.txRes = s.txRes) ∧
    (i = .rxStartA ∨ i = .rxStartB → s.rxSt = .idle ∨ s.rxSt = .done →
      ∃ t, exec i s = .next t ∧ t.rxRes = .none ∧ t.txRes = s.txRes)

/-! ## Encoding and fetching -/

/-- Decoding an encoded well-formed instruction gives it back, every operand at every value, whatever follows (R80, R81,
R92, R93). -/
def Obligations.DecodeOfEncodeIsTheInstruction : Prop :=
  ∀ (i : Instr) (rest : List Byte), i.wf = true → decode (encode i ++ rest) = .instr i rest

/-- What decodes is a well-formed instruction, and its encoding is what was read: no bit is dropped and no word has two
readings (R80, R81, R92, R93). -/
def Obligations.EncodeOfDecodeIsTheBytes : Prop :=
  ∀ (bs rest : List Byte) (i : Instr), decode bs = .instr i rest → i.wf = true ∧ bs = encode i ++ rest

/-- Reserved command codes and direction operands are refused and are no step (R94; decision D6), and so is a command cut
off (the model's choice, notes/assumptions/15.md); that they stand first in the inputs is notes/assumptions/1.md. -/
def Obligations.ReservedEncodingsAreRefused : Prop :=
  (∀ (c : Byte) (rest : List Byte),
    c ∉ [0x10#8, 0x11#8, 0x12#8, 0x20#8, 0x21#8, 0x22#8, 0x30#8, 0x31#8, 0x40#8, 0x41#8, 0x42#8, 0x43#8] →
      decodeCommand (c :: rest) = .rejected (.reservedCode c)) ∧
  (∀ (c d b1 b2 nLo nHi : Byte) (rest : List Byte), c = 0x30#8 ∨ c = 0x31#8 → d ≠ 0x00#8 → d ≠ 0x01#8 →
    decodeCommand (c :: d :: b1 :: b2 :: nLo :: nHi :: rest) = .rejected (.reservedDirection d)) ∧
  (∀ (s : State) (bs : List Byte) (rest : List Input) (r : Reject),
    s.inputs = .command bs :: rest → decodeCommand bs = .rejected r → step s = .refused (.undecoded r))

/-- Words written out from the tables of R80, R81, R92 and R93 decode to the instructions they stand for, one or more of
every family. -/
def Obligations.WordsOfEachFamilyDecode : Prop :=
  decode [0x11#8, 0xA5#8] = .instr (.sumByte 0xA5#8) [] ∧
  decode [0x21#8, 0x3C#8] = .instr (.crcByte 0x3C#8) [] ∧
  decode [0x31#8, 0x01#8, 0x20#8, 0x07#8, 0x02#8, 0x00#8, 0xAA#8, 0x55#8] =
    .instr (.txBuildB .d2h 0x20#8 0x07#8 [0xAA#8, 0x55#8]) [] ∧
  decode [0x30#8, 0x00#8, 0xB1#8, 0xC1#8, 0x01#8, 0x00#8, 0x33#8] = .instr (.txBuildA .h2d 0xB1#8 0xC1#8 [0x33#8]) [] ∧
  decode [0x41#8] = .instr .rxStartB [] ∧
  decode [0x42#8, 0xFA#8] = .instr (.rxByte 0xFA#8) [] ∧
  decode [0xF0#8, 0xA1#8, 0xC3#8, 0x02#8, 0x10#8, 0x20#8, 0x99#8] =
    .instr (.frameAD2H 0xA1#8 0xC3#8 [0x10#8, 0x20#8] 0x99#8) [] ∧
  decode [0xFB#8, 0x10#8, 0x05#8, 0x00#8, 0x30#8, 0xC5#8] = .instr (.frameBH2D 0x10#8 0x05#8 [] 0x30#8 0xC5#8) [] ∧
  decode [0x13#8] = .rejected (.reservedCode 0x13#8)

/-- A step runs the decoded instruction: the first command or wire frame of the inputs, with its bytes taken; on the
transport's turn, and with nothing issued while a parse is active, the next event of RXS (R7, R8, R66, R71, R161; the inputs
are the model's, notes/assumptions/1.md). Wire bytes that are no frame join RXS and an active parser takes one event
(notes/assumptions/11.md). Where nothing can move, the step says so: a parse the transport does not answer is stuck (U12,
notes/assumptions/13.md). -/
def Obligations.StepRunsTheDecodedInstruction : Prop :=
  ∀ s : State,
    (∀ bs tail rest i, s.inputs = .command bs :: rest → decodeCommand bs = .instr i tail →
      step s = exec i { s with inputs := if tail = [] then rest else .command tail :: rest }) ∧
    (∀ bs tail rest i, s.inputs = .wire bs :: rest → decodeFrame bs = .instr i tail →
      step s = exec i { s with inputs := if tail = [] then rest else .wire tail :: rest }) ∧
    (∀ bs rest r, s.inputs = .wire bs :: rest → decodeFrame bs = .rejected r →
      (s.rxSt.isActive = true → ∀ e es, s.rxs ++ bs.map .byte = e :: es →
        step s = exec e.instr { s with inputs := rest, rxs := e :: es }) ∧
      (s.rxSt.isActive = false ∨ s.rxs ++ bs.map .byte = [] →
        step s = .next { s with inputs := rest, rxs := s.rxs ++ bs.map .byte, ret := [] })) ∧
    (∀ rest e es, s.inputs = .transport :: rest → s.rxs = e :: es → step s = exec e.instr { s with inputs := rest }) ∧
    (∀ rest, s.inputs = .transport :: rest → s.rxs = [] →
      step s = if s.rxSt.isActive = true then .fault .transportSilent else .refused .noReadPending) ∧
    (∀ b es, s.inputs = [] → s.rxSt.isActive = true → s.rxs = .byte b :: es → step s = exec (.rxByte b) s) ∧
    (∀ es, s.inputs = [] → s.rxSt.isActive = true → s.rxs = .short :: es → step s = exec .rxShort s) ∧
    (s.inputs = [] → s.rxSt.isActive = true → s.rxs = [] → step s = .fault .transportSilent) ∧
    (s.inputs = [] → s.rxSt.isActive = false → step s = .refused .nothingIssued)

/-! ## Runs -/

/-- With a transport that answers every read (R10, the named premise U12 asks for), every parse of a run ends, a variant
A scan apart (R178 (e)): from a state of the invariant, whatever else the host does meanwhile. -/
def Obligations.FairTransportEndsTheParse : Prop :=
  ∀ (given : Nat → List Input) (r : Nat → State), IsRun given r → TransportFair given r → StateInv (r 0) →
    ∀ n, (r n).rxSt.isActive = true → (r n).rxVar = .b ∨ (r n).rxSt ≠ .awaitMarker →
      ∃ m, n ≤ m ∧ (r m).rxSt.isActive = false
end

