-- ==== Sys2Proof/Laws/Checksum.lean ====
section
/-! SUPPORT. The checksum functions taken a byte at a time. -/

namespace Sys2Proof.Machine

@[simp] theorem crcFrom_nil (c : Half) : crcFrom c [] = c := rfl

@[simp] theorem crcFrom_cons (c : Half) (b : Byte) (q : List Byte) :
    crcFrom c (b :: q) = crcFrom (crcUpdate c b) q := rfl

theorem crcFrom_append (c : Half) (p q : List Byte) : crcFrom c (p ++ q) = crcFrom (crcFrom c p) q := by
  simp [crcFrom]

theorem crc16_append (p q : List Byte) : crc16 (p ++ q) = crcFrom (crc16 p) q := crcFrom_append _ _ _

@[simp] theorem crc16_nil : crc16 [] = crcInitValue := rfl

@[simp] theorem sumBytes_nil : sumBytes [] = 0#8 := rfl

@[simp] theorem sumBytes_cons (b : Byte) (q : List Byte) : sumBytes (b :: q) = b + sumBytes q := by
  simp [sumBytes, BitVec.ofNat_add]

theorem sumBytes_append (p q : List Byte) : sumBytes (p ++ q) = sumBytes p + sumBytes q := by
  simp [sumBytes, BitVec.ofNat_add]

/-- sum8 is the sum of the tag, the length byte and the payload bytes, each reduced. -/
theorem sum8_eq_sumBytes (t : Byte) (p : List Byte) : sum8 t p = sumBytes (t :: lenByte p :: p) := by
  apply BitVec.eq_of_toNat_eq
  simp only [sum8, sumBytes, lenByte, List.map_cons, List.sum_cons, BitVec.toNat_ofNat]
  omega

theorem toNat_lo (c : Half) : (lo c).toNat = c.toNat % 256 := by
  simp [lo, BitVec.extractLsb'_toNat]

theorem toNat_hi (c : Half) : (hi c).toNat = c.toNat / 256 := by
  have := c.isLt
  simp [hi, BitVec.extractLsb'_toNat, Nat.shiftRight_eq_div_pow]
  omega

theorem toNat_joinHalf (high low : Byte) : (joinHalf high low).toNat = low.toNat + 256 * high.toNat := by
  change (high ++ low : BitVec (8 + 8)).toNat = _
  rw [BitVec.toNat_append, ← Nat.shiftLeft_add_eq_or_of_lt low.isLt, Nat.shiftLeft_eq]
  omega

@[simp] theorem lo_joinHalf (high low : Byte) : lo (joinHalf high low) = low := by
  apply BitVec.eq_of_toNat_eq
  have := low.isLt
  rw [toNat_lo, toNat_joinHalf]
  omega

@[simp] theorem hi_joinHalf (high low : Byte) : hi (joinHalf high low) = high := by
  apply BitVec.eq_of_toNat_eq
  have := low.isLt
  rw [toNat_hi, toNat_joinHalf]
  omega

@[simp] theorem joinHalf_hi_lo (c : Half) : joinHalf (hi c) (lo c) = c := by
  apply BitVec.eq_of_toNat_eq
  rw [toNat_joinHalf, toNat_lo, toNat_hi]
  omega

end Sys2Proof.Machine
end

