-- ==== Sys2Proof/Laws/Decode.lean ====
section
/-! SUPPORT. The codes of the opcode table and the length operand. -/

namespace Sys2Proof

@[simp] theorem opCode_ofByte_toByte (op : OpCode) : OpCode.ofByte op.toByte = some op := by
  cases op <;> rfl

@[simp] theorem frameKind_ofByte_toByte (k : FrameKind) : FrameKind.ofByte k.toByte = some k := by
  cases k <;> rfl

/-- No command code is a frame kind. -/
@[simp] theorem frameKind_ofByte_opCode (op : OpCode) : FrameKind.ofByte op.toByte = none := by
  cases op <;> rfl

@[simp] theorem direction_ofByte_toByte (d : Direction) : Direction.ofByte d.toByte = some d := by
  cases d <;> rfl

theorem opCode_ofByte_some {c : Byte} {op : OpCode} (h : OpCode.ofByte c = some op) : c = op.toByte := by
  simpa [eq_comm] using List.find?_some h

theorem frameKind_ofByte_some {c : Byte} {k : FrameKind} (h : FrameKind.ofByte c = some k) : c = k.toByte := by
  simpa [eq_comm] using List.find?_some h

theorem direction_ofByte_some {c : Byte} {d : Direction} (h : Direction.ofByte c = some d) : c = d.toByte := by
  simpa [eq_comm] using List.find?_some h

/-- The two length bytes carry every length below 65536 (R93). -/
theorem lengthOperand_bytes {n : Nat} (h : n < 65536) : lengthOperand (lengthLo n) (lengthHi n) = n := by
  simp only [lengthOperand, lengthLo, lengthHi, BitVec.toNat_ofNat]
  omega

/-- The `len` byte carries every length below 256 (R84). -/
theorem toNat_lenByte {n : Nat} (h : n < 256) : (BitVec.ofNat 8 n).toNat = n := by
  simp only [BitVec.toNat_ofNat]
  omega

end Sys2Proof
end

