-- ==== Sys2Proof/Laws/Memory.lean ====
section
/-! SUPPORT. The payload buffer: a read after a write, and that a write keeps the canonical form. -/

namespace Sys2Proof.Machine

theorem read_write (m : Memory) (i j : Nat) (v : Byte) :
    Memory.read (Memory.write m i v) j = if j = i then some v else Memory.read m j := by
  induction m with
  | nil => simp [Memory.write, Memory.read]
  | cons c m ih =>
    obtain ⟨k, w⟩ := c
    simp only [Memory.write]
    split
    · simp [Memory.read]
    · split
      · subst i
        by_cases hj : j = k <;> simp [Memory.read, hj]
      · by_cases hj : j = k
        · subst hj
          simp [Memory.read, Ne.symm ‹¬i = j›]
        · simp [Memory.read, hj, ih]

@[simp] theorem read_write_same (m : Memory) (i : Nat) (v : Byte) :
    Memory.read (Memory.write m i v) i = some v := by simp [read_write]

theorem read_write_other (m : Memory) {i j : Nat} (v : Byte) (h : j ≠ i) :
    Memory.read (Memory.write m i v) j = Memory.read m j := by simp [read_write, h]

/-- The cells of a written buffer are the written one and cells that stood there. -/
theorem mem_write {m : Memory} {i : Nat} {v : Byte} {c : Host.Cell} (h : c ∈ Memory.write m i v) :
    c = (i, v) ∨ c ∈ m := by
  induction m with
  | nil => simpa [Memory.write] using h
  | cons d m ih =>
    obtain ⟨k, w⟩ := d
    simp only [Memory.write] at h
    split at h
    · simpa using h
    · split at h
      · rcases List.mem_cons.mp h with h | h <;> simp [h]
      · rcases List.mem_cons.mp h with h | h
        · simp [h]
        · rcases ih h with h | h <;> simp [h]

theorem write_rising {m : Memory} {i : Nat} {v : Byte} (h : m.Pairwise (fun x y => x.1 < y.1)) :
    (Memory.write m i v).Pairwise (fun x y => x.1 < y.1) := by
  induction m with
  | nil => simp [Memory.write]
  | cons d m ih =>
    obtain ⟨k, w⟩ := d
    obtain ⟨hd, hm⟩ := List.pairwise_cons.mp h
    simp only [Memory.write]
    split
    · refine List.pairwise_cons.mpr ⟨fun c hc => ?_, h⟩
      rcases List.mem_cons.mp hc with rfl | hc
      · assumption
      · exact Nat.lt_trans ‹i < k› (hd c hc)
    · split
      · subst i
        exact List.pairwise_cons.mpr ⟨hd, hm⟩
      · refine List.pairwise_cons.mpr ⟨fun c hc => ?_, ih hm⟩
        rcases mem_write hc with rfl | hc
        · simp only
          omega
        · exact hd c hc

theorem wf_iff (m : Memory) :
    Memory.wf m = true ↔ m.Pairwise (fun x y => x.1 < y.1) ∧ ∀ c ∈ m, c.1 < pbufSize := by
  simp [Memory.wf]

/-- The payload buffer after reset has the canonical form. -/
theorem reset_wf : Memory.wf State.reset.rxPbuf = true := rfl

/-- A write inside the buffer keeps the canonical form. -/
theorem write_wf {m : Memory} {i : Nat} {v : Byte} (h : Memory.wf m = true) (hi : i < pbufSize) :
    Memory.wf (Memory.write m i v) = true := by
  rw [wf_iff] at h ⊢
  refine ⟨write_rising h.1, fun c hc => ?_⟩
  rcases mem_write hc with rfl | hc
  · exact hi
  · exact h.2 c hc

/-- A write at or above n leaves the first n entries alone. -/
theorem readFirst_write_ge {m : Memory} {n i : Nat} (v : Byte) (h : n ≤ i) :
    Memory.readFirst (Memory.write m i v) n = Memory.readFirst m n := by
  induction n with
  | zero => rfl
  | succ n ih =>
    simp only [Memory.readFirst, ih (by omega), read_write_other m v (by omega : n ≠ i)]

/-- Writing the entry after the first n lengthens what is held by that byte. -/
theorem readFirst_write_next {m : Memory} {n : Nat} {p : List Byte} (v : Byte)
    (h : Memory.readFirst m n = some p) :
    Memory.readFirst (Memory.write m n v) (n + 1) = some (p ++ [v]) := by
  simp [Memory.readFirst, readFirst_write_ge v (Nat.le_refl n), h]

theorem readFirst_length {m : Memory} {n : Nat} {p : List Byte} (h : Memory.readFirst m n = some p) :
    p.length = n := by
  induction n generalizing p with
  | zero => simp [Memory.readFirst] at h; simp [← h]
  | succ n ih =>
    simp only [Memory.readFirst] at h
    split at h
    · cases h; simp [ih ‹_›]
    · cases h

end Sys2Proof.Machine
end

