-- ==== Sys2Proof/Laws/PerInstr.lean ====
section
/-! SUPPORT. Per instruction: the encoding has the length its own first bytes announce (R83, R92, R93). -/

namespace Sys2Proof.Laws.EncodedLength

/-- What is said of every instruction. -/
def Statement (i : Instr) : Prop := i.wf = true → encodedLength (encode i) = (encode i).length

theorem build (op : OpCode) (hop : op = .txBuildA ∨ op = .txBuildB) (d : Direction) (b1 b2 : Byte) (p : List Byte)
    (h : p.length < 65536) : encodedLength (encodeBuild op d b1 b2 p) = (encodeBuild op d b1 b2 p).length := by
  have hn := lengthOperand_bytes h
  rcases hop with rfl | rfl <;> simp [encodedLength, encodeBuild, hn] <;> omega

theorem frame (k : FrameKind) (b1 b2 : Byte) (p tr : List Byte) (h : p.length < 256)
    (ht : tr.length = match k with | .aD2H => 1 | .aH2D => 1 | .bD2H => 2 | .bH2D => 2) :
    encodedLength (encodeFrame k b1 b2 p tr) = (encodeFrame k b1 b2 p tr).length := by
  have hn := toNat_lenByte h
  cases k <;> simp [encodedLength, encodeFrame] at * <;> omega

theorem sumInit : Statement .sumInit := fun _ => rfl
theorem sumByte (b : Byte) : Statement (.sumByte b) := fun _ => rfl
theorem sumRead : Statement .sumRead := fun _ => rfl
theorem crcInit : Statement .crcInit := fun _ => rfl
theorem crcByte (b : Byte) : Statement (.crcByte b) := fun _ => rfl
theorem crcRead : Statement .crcRead := fun _ => rfl
theorem txBuildA (d : Direction) (b1 b2 : Byte) (p : List Byte) : Statement (.txBuildA d b1 b2 p) :=
  fun h => build _ (.inl rfl) d b1 b2 p (by simpa [Instr.wf] using h)
theorem txBuildB (d : Direction) (b1 b2 : Byte) (p : List Byte) : Statement (.txBuildB d b1 b2 p) :=
  fun h => build _ (.inr rfl) d b1 b2 p (by simpa [Instr.wf] using h)
theorem rxStartA : Statement .rxStartA := fun _ => rfl
theorem rxStartB : Statement .rxStartB := fun _ => rfl
theorem rxByte (b : Byte) : Statement (.rxByte b) := fun _ => rfl
theorem rxShort : Statement .rxShort := fun _ => rfl
theorem frameAD2H (tag field : Byte) (p : List Byte) (chk : Byte) : Statement (.frameAD2H tag field p chk) :=
  fun h => frame _ tag field p _ (by simpa [Instr.wf] using h) rfl
theorem frameAH2D (tag field : Byte) (p : List Byte) (chk : Byte) : Statement (.frameAH2D tag field p chk) :=
  fun h => frame _ tag field p _ (by simpa [Instr.wf] using h) rfl
theorem frameBD2H (op sequence : Byte) (p : List Byte) (crcLo crcHi : Byte) :
    Statement (.frameBD2H op sequence p crcLo crcHi) :=
  fun h => frame _ op sequence p _ (by simpa [Instr.wf] using h) rfl
theorem frameBH2D (op sequence : Byte) (p : List Byte) (crcLo crcHi : Byte) :
    Statement (.frameBH2D op sequence p crcLo crcHi) :=
  fun h => frame _ op sequence p _ (by simpa [Instr.wf] using h) rfl

end Sys2Proof.Laws.EncodedLength
end

