-- ==== Sys2Proof/Laws/State.lean ====
section
/-! SUPPORT. One lemma per field per named update of the state, so that no later proof unfolds a record update. -/

namespace Sys2Proof.Machine

/-! ## appendTxs -/

@[simp] theorem appendTxs_sum (q : List Byte) (s : State) : (appendTxs q s).sum = s.sum := rfl
@[simp] theorem appendTxs_crc (q : List Byte) (s : State) : (appendTxs q s).crc = s.crc := rfl
@[simp] theorem appendTxs_rxVar (q : List Byte) (s : State) : (appendTxs q s).rxVar = s.rxVar := rfl
@[simp] theorem appendTxs_rxSt (q : List Byte) (s : State) : (appendTxs q s).rxSt = s.rxSt := rfl
@[simp] theorem appendTxs_rxRes (q : List Byte) (s : State) : (appendTxs q s).rxRes = s.rxRes := rfl
@[simp] theorem appendTxs_rxCnt (q : List Byte) (s : State) : (appendTxs q s).rxCnt = s.rxCnt := rfl
@[simp] theorem appendTxs_rxDir (q : List Byte) (s : State) : (appendTxs q s).rxDir = s.rxDir := rfl
@[simp] theorem appendTxs_rxB1 (q : List Byte) (s : State) : (appendTxs q s).rxB1 = s.rxB1 := rfl
@[simp] theorem appendTxs_rxB2 (q : List Byte) (s : State) : (appendTxs q s).rxB2 = s.rxB2 := rfl
@[simp] theorem appendTxs_rxLen (q : List Byte) (s : State) : (appendTxs q s).rxLen = s.rxLen := rfl
@[simp] theorem appendTxs_rxSum (q : List Byte) (s : State) : (appendTxs q s).rxSum = s.rxSum := rfl
@[simp] theorem appendTxs_rxCrc (q : List Byte) (s : State) : (appendTxs q s).rxCrc = s.rxCrc := rfl
@[simp] theorem appendTxs_rxChk (q : List Byte) (s : State) : (appendTxs q s).rxChk = s.rxChk := rfl
@[simp] theorem appendTxs_rxPbuf (q : List Byte) (s : State) : (appendTxs q s).rxPbuf = s.rxPbuf := rfl
@[simp] theorem appendTxs_txRes (q : List Byte) (s : State) : (appendTxs q s).txRes = s.txRes := rfl
@[simp] theorem appendTxs_rxs (q : List Byte) (s : State) : (appendTxs q s).rxs = s.rxs := rfl
@[simp] theorem appendTxs_txs (q : List Byte) (s : State) : (appendTxs q s).txs = s.txs ++ q := rfl
@[simp] theorem appendTxs_params (q : List Byte) (s : State) : (appendTxs q s).params = s.params := rfl
@[simp] theorem appendTxs_inputs (q : List Byte) (s : State) : (appendTxs q s).inputs = s.inputs := rfl
@[simp] theorem appendTxs_ret (q : List Byte) (s : State) : (appendTxs q s).ret = s.ret := rfl

/-! ## consume -/

@[simp] theorem consume_sum (s : State) : (consume s).sum = s.sum := rfl
@[simp] theorem consume_crc (s : State) : (consume s).crc = s.crc := rfl
@[simp] theorem consume_rxVar (s : State) : (consume s).rxVar = s.rxVar := rfl
@[simp] theorem consume_rxSt (s : State) : (consume s).rxSt = s.rxSt := rfl
@[simp] theorem consume_rxRes (s : State) : (consume s).rxRes = s.rxRes := rfl
@[simp] theorem consume_rxCnt (s : State) : (consume s).rxCnt = s.rxCnt := rfl
@[simp] theorem consume_rxDir (s : State) : (consume s).rxDir = s.rxDir := rfl
@[simp] theorem consume_rxB1 (s : State) : (consume s).rxB1 = s.rxB1 := rfl
@[simp] theorem consume_rxB2 (s : State) : (consume s).rxB2 = s.rxB2 := rfl
@[simp] theorem consume_rxLen (s : State) : (consume s).rxLen = s.rxLen := rfl
@[simp] theorem consume_rxSum (s : State) : (consume s).rxSum = s.rxSum := rfl
@[simp] theorem consume_rxCrc (s : State) : (consume s).rxCrc = s.rxCrc := rfl
@[simp] theorem consume_rxChk (s : State) : (consume s).rxChk = s.rxChk := rfl
@[simp] theorem consume_rxPbuf (s : State) : (consume s).rxPbuf = s.rxPbuf := rfl
@[simp] theorem consume_txRes (s : State) : (consume s).txRes = s.txRes := rfl
@[simp] theorem consume_rxs (s : State) : (consume s).rxs = s.rxs.tail := rfl
@[simp] theorem consume_txs (s : State) : (consume s).txs = s.txs := rfl
@[simp] theorem consume_params (s : State) : (consume s).params = s.params := rfl
@[simp] theorem consume_inputs (s : State) : (consume s).inputs = s.inputs := rfl
@[simp] theorem consume_ret (s : State) : (consume s).ret = s.ret := rfl

/-! ## reply -/

@[simp] theorem reply_sum (bs : List Byte) (s : State) : (reply bs s).sum = s.sum := rfl
@[simp] theorem reply_crc (bs : List Byte) (s : State) : (reply bs s).crc = s.crc := rfl
@[simp] theorem reply_rxVar (bs : List Byte) (s : State) : (reply bs s).rxVar = s.rxVar := rfl
@[simp] theorem reply_rxSt (bs : List Byte) (s : State) : (reply bs s).rxSt = s.rxSt := rfl
@[simp] theorem reply_rxRes (bs : List Byte) (s : State) : (reply bs s).rxRes = s.rxRes := rfl
@[simp] theorem reply_rxCnt (bs : List Byte) (s : State) : (reply bs s).rxCnt = s.rxCnt := rfl
@[simp] theorem reply_rxDir (bs : List Byte) (s : State) : (reply bs s).rxDir = s.rxDir := rfl
@[simp] theorem reply_rxB1 (bs : List Byte) (s : State) : (reply bs s).rxB1 = s.rxB1 := rfl
@[simp] theorem reply_rxB2 (bs : List Byte) (s : State) : (reply bs s).rxB2 = s.rxB2 := rfl
@[simp] theorem reply_rxLen (bs : List Byte) (s : State) : (reply bs s).rxLen = s.rxLen := rfl
@[simp] theorem reply_rxSum (bs : List Byte) (s : State) : (reply bs s).rxSum = s.rxSum := rfl
@[simp] theorem reply_rxCrc (bs : List Byte) (s : State) : (reply bs s).rxCrc = s.rxCrc := rfl
@[simp] theorem reply_rxChk (bs : List Byte) (s : State) : (reply bs s).rxChk = s.rxChk := rfl
@[simp] theorem reply_rxPbuf (bs : List Byte) (s : State) : (reply bs s).rxPbuf = s.rxPbuf := rfl
@[simp] theorem reply_txRes (bs : List Byte) (s : State) : (reply bs s).txRes = s.txRes := rfl
@[simp] theorem reply_rxs (bs : List Byte) (s : State) : (reply bs s).rxs = s.rxs := rfl
@[simp] theorem reply_txs (bs : List Byte) (s : State) : (reply bs s).txs = s.txs := rfl
@[simp] theorem reply_params (bs : List Byte) (s : State) : (reply bs s).params = s.params := rfl
@[simp] theorem reply_inputs (bs : List Byte) (s : State) : (reply bs s).inputs = s.inputs := rfl
@[simp] theorem reply_ret (bs : List Byte) (s : State) : (reply bs s).ret = bs := rfl

/-! ## raiseRx -/

@[simp] theorem raiseRx_sum (r : RxRes) (s : State) : (raiseRx r s).sum = s.sum := rfl
@[simp] theorem raiseRx_crc (r : RxRes) (s : State) : (raiseRx r s).crc = s.crc := rfl
@[simp] theorem raiseRx_rxVar (r : RxRes) (s : State) : (raiseRx r s).rxVar = s.rxVar := rfl
@[simp] theorem raiseRx_rxSt (r : RxRes) (s : State) : (raiseRx r s).rxSt = .done := rfl
@[simp] theorem raiseRx_rxRes (r : RxRes) (s : State) : (raiseRx r s).rxRes = r := rfl
@[simp] theorem raiseRx_rxCnt (r : RxRes) (s : State) : (raiseRx r s).rxCnt = s.rxCnt := rfl
@[simp] theorem raiseRx_rxDir (r : RxRes) (s : State) : (raiseRx r s).rxDir = s.rxDir := rfl
@[simp] theorem raiseRx_rxB1 (r : RxRes) (s : State) : (raiseRx r s).rxB1 = s.rxB1 := rfl
@[simp] theorem raiseRx_rxB2 (r : RxRes) (s : State) : (raiseRx r s).rxB2 = s.rxB2 := rfl
@[simp] theorem raiseRx_rxLen (r : RxRes) (s : State) : (raiseRx r s).rxLen = s.rxLen := rfl
@[simp] theorem raiseRx_rxSum (r : RxRes) (s : State) : (raiseRx r s).rxSum = s.rxSum := rfl
@[simp] theorem raiseRx_rxCrc (r : RxRes) (s : State) : (raiseRx r s).rxCrc = s.rxCrc := rfl
@[simp] theorem raiseRx_rxChk (r : RxRes) (s : State) : (raiseRx r s).rxChk = s.rxChk := rfl
@[simp] theorem raiseRx_rxPbuf (r : RxRes) (s : State) : (raiseRx r s).rxPbuf = s.rxPbuf := rfl
@[simp] theorem raiseRx_txRes (r : RxRes) (s : State) : (raiseRx r s).txRes = s.txRes := rfl
@[simp] theorem raiseRx_rxs (r : RxRes) (s : State) : (raiseRx r s).rxs = s.rxs := rfl
@[simp] theorem raiseRx_txs (r : RxRes) (s : State) : (raiseRx r s).txs = s.txs := rfl
@[simp] theorem raiseRx_params (r : RxRes) (s : State) : (raiseRx r s).params = s.params := rfl
@[simp] theorem raiseRx_inputs (r : RxRes) (s : State) : (raiseRx r s).inputs = s.inputs := rfl
@[simp] theorem raiseRx_ret (r : RxRes) (s : State) : (raiseRx r s).ret = s.ret := rfl

/-! ## raiseTx -/

@[simp] theorem raiseTx_sum (r : TxRes) (s : State) : (raiseTx r s).sum = s.sum := rfl
@[simp] theorem raiseTx_crc (r : TxRes) (s : State) : (raiseTx r s).crc = s.crc := rfl
@[simp] theorem raiseTx_rxVar (r : TxRes) (s : State) : (raiseTx r s).rxVar = s.rxVar := rfl
@[simp] theorem raiseTx_rxSt (r : TxRes) (s : State) : (raiseTx r s).rxSt = s.rxSt := rfl
@[simp] theorem raiseTx_rxRes (r : TxRes) (s : State) : (raiseTx r s).rxRes = s.rxRes := rfl
@[simp] theorem raiseTx_rxCnt (r : TxRes) (s : State) : (raiseTx r s).rxCnt = s.rxCnt := rfl
@[simp] theorem raiseTx_rxDir (r : TxRes) (s : State) : (raiseTx r s).rxDir = s.rxDir := rfl
@[simp] theorem raiseTx_rxB1 (r : TxRes) (s : State) : (raiseTx r s).rxB1 = s.rxB1 := rfl
@[simp] theorem raiseTx_rxB2 (r : TxRes) (s : State) : (raiseTx r s).rxB2 = s.rxB2 := rfl
@[simp] theorem raiseTx_rxLen (r : TxRes) (s : State) : (raiseTx r s).rxLen = s.rxLen := rfl
@[simp] theorem raiseTx_rxSum (r : TxRes) (s : State) : (raiseTx r s).rxSum = s.rxSum := rfl
@[simp] theorem raiseTx_rxCrc (r : TxRes) (s : State) : (raiseTx r s).rxCrc = s.rxCrc := rfl
@[simp] theorem raiseTx_rxChk (r : TxRes) (s : State) : (raiseTx r s).rxChk = s.rxChk := rfl
@[simp] theorem raiseTx_rxPbuf (r : TxRes) (s : State) : (raiseTx r s).rxPbuf = s.rxPbuf := rfl
@[simp] theorem raiseTx_txRes (r : TxRes) (s : State) : (raiseTx r s).txRes = r := rfl
@[simp] theorem raiseTx_rxs (r : TxRes) (s : State) : (raiseTx r s).rxs = s.rxs := rfl
@[simp] theorem raiseTx_txs (r : TxRes) (s : State) : (raiseTx r s).txs = s.txs := rfl
@[simp] theorem raiseTx_params (r : TxRes) (s : State) : (raiseTx r s).params = s.params := rfl
@[simp] theorem raiseTx_inputs (r : TxRes) (s : State) : (raiseTx r s).inputs = s.inputs := rfl
@[simp] theorem raiseTx_ret (r : TxRes) (s : State) : (raiseTx r s).ret = s.ret := rfl

/-! ## startParse -/

@[simp] theorem startParse_sum (v : Variant) (s : State) : (startParse v s).sum = s.sum := rfl
@[simp] theorem startParse_crc (v : Variant) (s : State) : (startParse v s).crc = s.crc := rfl
@[simp] theorem startParse_rxVar (v : Variant) (s : State) : (startParse v s).rxVar = v := rfl
@[simp] theorem startParse_rxSt (v : Variant) (s : State) : (startParse v s).rxSt = .awaitMarker := rfl
@[simp] theorem startParse_rxRes (v : Variant) (s : State) : (startParse v s).rxRes = .none := rfl
@[simp] theorem startParse_rxCnt (v : Variant) (s : State) : (startParse v s).rxCnt = 0#8 := rfl
@[simp] theorem startParse_rxDir (v : Variant) (s : State) : (startParse v s).rxDir = 0x00#8 := rfl
@[simp] theorem startParse_rxB1 (v : Variant) (s : State) : (startParse v s).rxB1 = 0x00#8 := rfl
@[simp] theorem startParse_rxB2 (v : Variant) (s : State) : (startParse v s).rxB2 = 0x00#8 := rfl
@[simp] theorem startParse_rxLen (v : Variant) (s : State) : (startParse v s).rxLen = 0x00#8 := rfl
@[simp] theorem startParse_rxSum (v : Variant) (s : State) : (startParse v s).rxSum = 0x00#8 := rfl
@[simp] theorem startParse_rxCrc (v : Variant) (s : State) : (startParse v s).rxCrc = crcInitValue := rfl
@[simp] theorem startParse_rxChk (v : Variant) (s : State) : (startParse v s).rxChk = 0x0000#16 := rfl
@[simp] theorem startParse_rxPbuf (v : Variant) (s : State) : (startParse v s).rxPbuf = s.rxPbuf := rfl
@[simp] theorem startParse_txRes (v : Variant) (s : State) : (startParse v s).txRes = s.txRes := rfl
@[simp] theorem startParse_rxs (v : Variant) (s : State) : (startParse v s).rxs = s.rxs := rfl
@[simp] theorem startParse_txs (v : Variant) (s : State) : (startParse v s).txs = s.txs := rfl
@[simp] theorem startParse_params (v : Variant) (s : State) : (startParse v s).params = s.params := rfl
@[simp] theorem startParse_inputs (v : Variant) (s : State) : (startParse v s).inputs = s.inputs := rfl
@[simp] theorem startParse_ret (v : Variant) (s : State) : (startParse v s).ret = s.ret := rfl

/-! ## hardReset: the registers of the block at their reset values, the rest kept -/

@[simp] theorem hardReset_sum (s : State) : (hardReset s).sum = 0x00#8 := rfl
@[simp] theorem hardReset_crc (s : State) : (hardReset s).crc = 0xFFFF#16 := rfl
@[simp] theorem hardReset_rxVar (s : State) : (hardReset s).rxVar = .a := rfl
@[simp] theorem hardReset_rxSt (s : State) : (hardReset s).rxSt = .idle := rfl
@[simp] theorem hardReset_rxRes (s : State) : (hardReset s).rxRes = .none := rfl
@[simp] theorem hardReset_rxCnt (s : State) : (hardReset s).rxCnt = 0#8 := rfl
@[simp] theorem hardReset_rxDir (s : State) : (hardReset s).rxDir = 0x00#8 := rfl
@[simp] theorem hardReset_rxB1 (s : State) : (hardReset s).rxB1 = 0x00#8 := rfl
@[simp] theorem hardReset_rxB2 (s : State) : (hardReset s).rxB2 = 0x00#8 := rfl
@[simp] theorem hardReset_rxLen (s : State) : (hardReset s).rxLen = 0x00#8 := rfl
@[simp] theorem hardReset_rxSum (s : State) : (hardReset s).rxSum = 0x00#8 := rfl
@[simp] theorem hardReset_rxCrc (s : State) : (hardReset s).rxCrc = 0xFFFF#16 := rfl
@[simp] theorem hardReset_rxChk (s : State) : (hardReset s).rxChk = 0x0000#16 := rfl
@[simp] theorem hardReset_rxPbuf (s : State) : (hardReset s).rxPbuf = [] := rfl
@[simp] theorem hardReset_txRes (s : State) : (hardReset s).txRes = .none := rfl
@[simp] theorem hardReset_rxs (s : State) : (hardReset s).rxs = s.rxs := rfl
@[simp] theorem hardReset_txs (s : State) : (hardReset s).txs = s.txs := rfl
@[simp] theorem hardReset_params (s : State) : (hardReset s).params = s.params := rfl
@[simp] theorem hardReset_inputs (s : State) : (hardReset s).inputs = s.inputs := rfl
@[simp] theorem hardReset_ret (s : State) : (hardReset s).ret = [] := rfl

end Sys2Proof.Machine
end

