-- ==== Sys2Proof/Laws/Rx.lean ====
section
/-! SUPPORT. What the parser's operations can do: what they leave alone, and when an event is a step. -/

namespace Sys2Proof.Machine

/-- The fields no byte taken by the parser touches (the column RX.BYTE of the access table, R45; RXS is consumed by
the operation around it). -/
def standing (s : State) :
    Byte × Half × Variant × TxRes × List RxEvent × List Byte × Params × List Input × List Byte :=
  (s.sum, s.crc, s.rxVar, s.txRes, s.rxs, s.txs, s.params, s.inputs, s.ret)

@[simp] theorem standing_raiseRx (r : RxRes) (s : State) : standing (raiseRx r s) = standing s := rfl

@[simp] theorem standing_resolve (s : State) : standing (resolve s) = standing s := by
  simp [resolve, standing]

@[simp] theorem standing_accumulate (b : Byte) (s : State) : standing (accumulate b s) = standing s := by
  unfold accumulate; split <;> simp_all [standing]

/-! An accumulator takes a byte and nothing else of the parser changes. -/

@[simp] theorem accumulate_rxVar (b : Byte) (s : State) : (accumulate b s).rxVar = s.rxVar := by
  unfold accumulate; split <;> rfl
@[simp] theorem accumulate_rxSt (b : Byte) (s : State) : (accumulate b s).rxSt = s.rxSt := by
  unfold accumulate; split <;> rfl
@[simp] theorem accumulate_rxRes (b : Byte) (s : State) : (accumulate b s).rxRes = s.rxRes := by
  unfold accumulate; split <;> rfl
@[simp] theorem accumulate_rxCnt (b : Byte) (s : State) : (accumulate b s).rxCnt = s.rxCnt := by
  unfold accumulate; split <;> rfl
@[simp] theorem accumulate_rxDir (b : Byte) (s : State) : (accumulate b s).rxDir = s.rxDir := by
  unfold accumulate; split <;> rfl
@[simp] theorem accumulate_rxB1 (b : Byte) (s : State) : (accumulate b s).rxB1 = s.rxB1 := by
  unfold accumulate; split <;> rfl
@[simp] theorem accumulate_rxB2 (b : Byte) (s : State) : (accumulate b s).rxB2 = s.rxB2 := by
  unfold accumulate; split <;> rfl
@[simp] theorem accumulate_rxLen (b : Byte) (s : State) : (accumulate b s).rxLen = s.rxLen := by
  unfold accumulate; split <;> rfl
@[simp] theorem accumulate_rxChk (b : Byte) (s : State) : (accumulate b s).rxChk = s.rxChk := by
  unfold accumulate; split <;> rfl
@[simp] theorem accumulate_rxPbuf (b : Byte) (s : State) : (accumulate b s).rxPbuf = s.rxPbuf := by
  unfold accumulate; split <;> rfl
@[simp] theorem accumulate_params (b : Byte) (s : State) : (accumulate b s).params = s.params := by
  unfold accumulate; split <;> rfl

@[simp] theorem standing_takeMarker (b : Byte) (s : State) : standing (takeMarker b s) = standing s := by
  unfold takeMarker; split <;> split <;> simp_all [standing]

@[simp] theorem standing_latchHeader (b : Byte) (s : State) : standing (latchHeader b s) = standing s := by
  unfold latchHeader; repeat' split
  all_goals simp [standing]

/-! Latching a header byte changes its latch only. -/

@[simp] theorem latchHeader_rxVar (b : Byte) (s : State) : (latchHeader b s).rxVar = s.rxVar := by
  unfold latchHeader; repeat' split
  all_goals rfl
@[simp] theorem latchHeader_rxSt (b : Byte) (s : State) : (latchHeader b s).rxSt = s.rxSt := by
  unfold latchHeader; repeat' split
  all_goals rfl
@[simp] theorem latchHeader_rxRes (b : Byte) (s : State) : (latchHeader b s).rxRes = s.rxRes := by
  unfold latchHeader; repeat' split
  all_goals rfl
@[simp] theorem latchHeader_rxCnt (b : Byte) (s : State) : (latchHeader b s).rxCnt = s.rxCnt := by
  unfold latchHeader; repeat' split
  all_goals rfl
@[simp] theorem latchHeader_rxDir (b : Byte) (s : State) : (latchHeader b s).rxDir = s.rxDir := by
  unfold latchHeader; repeat' split
  all_goals rfl
@[simp] theorem latchHeader_rxSum (b : Byte) (s : State) : (latchHeader b s).rxSum = s.rxSum := by
  unfold latchHeader; repeat' split
  all_goals rfl
@[simp] theorem latchHeader_rxCrc (b : Byte) (s : State) : (latchHeader b s).rxCrc = s.rxCrc := by
  unfold latchHeader; repeat' split
  all_goals rfl
@[simp] theorem latchHeader_rxChk (b : Byte) (s : State) : (latchHeader b s).rxChk = s.rxChk := by
  unfold latchHeader; repeat' split
  all_goals rfl
@[simp] theorem latchHeader_rxPbuf (b : Byte) (s : State) : (latchHeader b s).rxPbuf = s.rxPbuf := by
  unfold latchHeader; repeat' split
  all_goals rfl
@[simp] theorem latchHeader_params (b : Byte) (s : State) : (latchHeader b s).params = s.params := by
  unfold latchHeader; repeat' split
  all_goals rfl

@[simp] theorem standing_takeHeader (b : Byte) (s : State) : standing (takeHeader b s) = standing s := by
  have h : standing (if headerCovered s then accumulate b (latchHeader b s) else latchHeader b s) = standing s := by
    split <;> simp
  unfold takeHeader
  simp only
  split <;> exact h

@[simp] theorem standing_takePayload (b : Byte) (s : State) : standing (takePayload b s) = standing s := by
  have h := standing_accumulate b { s with rxPbuf := Memory.write s.rxPbuf s.rxCnt.toNat b }
  unfold takePayload
  simp only
  split <;> exact h

@[simp] theorem standing_takeTrailerA (b : Byte) (s : State) : standing (takeTrailerA b s) = standing s := by
  unfold takeTrailerA; simp only; split <;> simp <;> rfl

@[simp] theorem standing_takeTrailerB (b : Byte) (s : State) : standing (takeTrailerB b s) = standing s := by
  unfold takeTrailerB; simp only; repeat' split
  all_goals rfl

/-- A byte taken by the parser touches the parser's own registers only. -/
@[simp] theorem standing_takeByte (b : Byte) (s : State) : standing (takeByte b s) = standing s := by
  unfold takeByte; repeat' split
  all_goals simp

@[simp] theorem standing_takeEvent (e : RxEvent) (s : State) : standing (takeEvent e s) = standing s := by
  cases e <;> simp [takeEvent]

/-- What a change of stage does to RX_CNT (R23): 0 on every change but the entry into DONE, which leaves it alone (R168,
R169, R170, R214, the access table R45 and vector P3; notes/assumptions/8.md). -/
theorem takeEvent_stage_change {e : RxEvent} {s : State} (h : (takeEvent e s).rxSt ≠ s.rxSt) :
    (takeEvent e s).rxCnt = if (takeEvent e s).rxSt = .done then s.rxCnt else 0#8 := by
  cases e with
  | short => rfl
  | byte b =>
    change (takeByte b s).rxSt ≠ s.rxSt at h
    change (takeByte b s).rxCnt = if (takeByte b s).rxSt = .done then s.rxCnt else 0#8
    cases hs : s.rxSt <;> rw [hs] at h
    case idle | done => simp [takeByte, hs] at h
    case awaitMarker =>
      rw [show takeByte b s = takeMarker b s by simp [takeByte, hs]] at h ⊢
      unfold takeMarker at h ⊢
      split at h <;> split at h <;> simp_all
    case header =>
      rw [show takeByte b s = takeHeader b s by simp [takeByte, hs]] at h ⊢
      unfold takeHeader at h ⊢
      by_cases hc : s.rxCnt.toNat < 2
      · refine absurd ?_ h
        simp only [hc, if_true]
        split <;> simp [hs]
      · by_cases hb : b = 0x00#8 <;> simp [hc, hb]
    case payload =>
      rw [show takeByte b s = takePayload b s by simp [takeByte, hs]] at h ⊢
      unfold takePayload at h ⊢
      by_cases hc : s.rxCnt.toNat + 1 = s.rxLen.toNat
      · simp [hc]
      · exact absurd (by simp [hc, hs]) h
    case trailer =>
      cases hv : s.rxVar
      · rw [show takeByte b s = takeTrailerA b s by simp [takeByte, hs, hv]]
        unfold takeTrailerA
        split <;> simp [resolve]
      · rw [show takeByte b s = takeTrailerB b s by simp [takeByte, hs, hv]] at h ⊢
        unfold takeTrailerB at h ⊢
        by_cases hc : s.rxCnt = 0#8
        · exact absurd (by simp [hc, hs]) h
        · simp only [hc, if_false]
          split <;> simp [resolve]

/-- A transport event as an operation: when it answers a next state, and which. -/
theorem deliver_eq_next {e : RxEvent} {s t : State} :
    deliver e s = .next t ↔
      s.rxSt.isActive = true ∧ offers e s = true ∧ t = reply [] (takeEvent e (consume s)) := by
  unfold deliver
  cases s.rxSt.isActive <;> cases offers e s <;> simp [eq_comm]

/-- A start: when it answers a next state, and which. -/
theorem start_eq_next {v : Variant} {s t : State} :
    start v s = .next t ↔ s.rxSt.isActive = false ∧ t = reply [] (startParse v s) := by
  unfold start
  cases s.rxSt.isActive <;> simp [eq_comm]

theorem offers_iff {e : RxEvent} {s : State} : offers e s = true ↔ s.rxs = [] ∨ s.rxs.head? = some e := by
  unfold offers
  split <;> simp_all

/-- What answering a read can do: nothing, without a read or an event, or one event taken from the front of RXS. -/
theorem answerRead_cases (s : State) :
    (s.rxSt.isActive = false ∧ answerRead s = s) ∨
    (s.rxSt.isActive = true ∧ s.rxs = [] ∧ answerRead s = s) ∨
    (∃ e es, s.rxSt.isActive = true ∧ s.rxs = e :: es ∧ answerRead s = takeEvent e (consume s)) := by
  unfold answerRead
  split
  · split <;> simp_all
  · simp_all

/-- A taken event leaves RXS to the operation around it. -/
@[simp] theorem takeEvent_rxs (e : RxEvent) (s : State) : (takeEvent e s).rxs = s.rxs := by
  have h := standing_takeEvent e s
  simp only [standing, Prod.mk.injEq] at h
  simp [h]

/-- Answering a read takes at most one event, the first. -/
theorem answerRead_rxs (s : State) : ∃ taken, s.rxs = taken ++ (answerRead s).rxs ∧ taken.length ≤ 1 := by
  rcases answerRead_cases s with ⟨-, h⟩ | ⟨-, -, h⟩ | ⟨e, es, -, he, h⟩
  · exact ⟨[], by simp [h]⟩
  · exact ⟨[], by simp [h]⟩
  · exact ⟨[e], by simp [h, he]⟩

/-- What answering a read leaves alone: everything outside the parser but RXS. -/
theorem answerRead_standing (s : State) : standing { answerRead s with rxs := s.rxs } = standing s := by
  rcases answerRead_cases s with ⟨-, h⟩ | ⟨-, -, h⟩ | ⟨e, es, -, -, h⟩ <;> rw [h]
  have hs := standing_takeEvent e (consume s)
  simp only [standing, Prod.mk.injEq] at *
  simp [hs]

/-- A property every event keeps, and that does not speak of RXS, is kept when a read is answered. -/
theorem answerRead_keeps {P : State → Prop} (hrxs : ∀ s es, P s → P { s with rxs := es })
    (hev : ∀ e s, s.rxSt.isActive = true → P s → P (takeEvent e s)) {s : State} (h : P s) : P (answerRead s) := by
  rcases answerRead_cases s with ⟨-, h'⟩ | ⟨-, -, h'⟩ | ⟨e, es, ha, -, h'⟩ <;> rw [h']
  · exact h
  · exact h
  · exact hev _ _ ha (hrxs _ _ h)

/-- An arrival with a parse active is the one event that then stands first, taken as an operation. -/
theorem arrive_active {bs : List Byte} {s : State} {e : RxEvent} {es : List RxEvent} (ha : s.rxSt.isActive = true)
    (he : s.rxs ++ bs.map .byte = e :: es) : arrive bs s = takeEvent e { s with rxs := es } := by
  simp [arrive, answerRead, ha, he, consume]

/-- An arrival with no parse active waits in RXS. -/
theorem arrive_inactive {bs : List Byte} {s : State} (ha : s.rxSt.isActive = false) :
    arrive bs s = { s with rxs := s.rxs ++ bs.map .byte } := by
  simp [arrive, answerRead, ha]

end Sys2Proof.Machine
end

