-- ==== Sys2Proof/Laws/Step.lean ====
section
/-! SUPPORT. What one step can be. -/

namespace Sys2Proof.Machine

/-! What the outside adds touches the inputs only. -/

@[simp] theorem issue_inputs (is : List Input) (s : State) : (issue is s).inputs = s.inputs ++ is := rfl
@[simp] theorem issue_rxSt (is : List Input) (s : State) : (issue is s).rxSt = s.rxSt := rfl
@[simp] theorem issue_rxVar (is : List Input) (s : State) : (issue is s).rxVar = s.rxVar := rfl
@[simp] theorem issue_rxs (is : List Input) (s : State) : (issue is s).rxs = s.rxs := rfl
@[simp] theorem stateInv_issue (is : List Input) (s : State) : StateInv (issue is s) ↔ StateInv s := Iff.rfl

/-- A step that answers a next state ran an instruction, received wire bytes that are no frame, or was a reset. -/
theorem step_cases {s t : State} (h : step s = .next t) :
    (∃ i u, fetch s = .run i u ∧ exec i u = .next t) ∨
    (∃ bs u, fetch s = .arrival bs u ∧ t = reply [] (arrive bs u)) ∨
    (∃ u, fetch s = .reset u ∧ t = hardReset u) := by
  unfold step at h
  split at h
  · exact .inl ⟨_, _, ‹_›, h⟩
  · cases h; exact .inr (.inl ⟨_, _, ‹_›, rfl⟩)
  · cases h; exact .inr (.inr ⟨_, ‹_›, rfl⟩)
  · cases h
  · cases h

/-- Where each subject of a step comes from; nothing but the inputs changes on the way. -/
theorem fetch_cases (s : State) :
    (∃ bs rest i tail, s.inputs = .command bs :: rest ∧ decodeCommand bs = .instr i tail ∧
      fetch s = .run i { s with inputs := advance .command tail rest }) ∨
    (∃ bs rest i tail, s.inputs = .wire bs :: rest ∧ decodeFrame bs = .instr i tail ∧
      fetch s = .run i { s with inputs := advance .wire tail rest }) ∨
    (∃ bs rest, s.inputs = .wire bs :: rest ∧ fetch s = .arrival bs { s with inputs := rest }) ∨
    (∃ rest, s.inputs = .reset :: rest ∧ fetch s = .reset { s with inputs := rest }) ∨
    (∃ rest e es, s.inputs = .transport :: rest ∧ s.rxs = e :: es ∧ fetch s = .run e.instr { s with inputs := rest }) ∨
    (∃ e es, s.inputs = [] ∧ s.rxSt.isActive = true ∧ s.rxs = e :: es ∧ fetch s = .run e.instr s) ∨
    (s.rxSt.isActive = true ∧ s.rxs = [] ∧ fetch s = .stuck .transportSilent) ∨ (∃ r, fetch s = .noStep r) := by
  unfold fetch
  split
  · unfold fetchEvent; split
    · split <;> simp_all
    · simp_all
  · unfold fetchCommand; split <;> simp_all
  · unfold fetchWire; split <;> simp_all
  · unfold fetchTurn; split
    · simp_all
    · split <;> simp_all
  · simp_all

/-- What a step does, the inputs apart: an instruction, an arrival on the wire, or a reset. -/
theorem step_effects {s t : State} (h : step s = .next t) :
    ∃ ins, (∃ i, exec i { s with inputs := ins } = .next t) ∨
      (∃ bs, t = reply [] (arrive bs { s with inputs := ins })) ∨ t = hardReset { s with inputs := ins } := by
  have hf := fetch_cases s
  rcases step_cases h with ⟨i, u, hr, he⟩ | ⟨bs, u, hr, rfl⟩ | ⟨u, hr, rfl⟩ <;> simp only [hr] at hf
  · rcases hf with ⟨_, _, _, _, _, _, hf⟩ | ⟨_, _, _, _, _, _, hf⟩ | ⟨_, _, _, hf⟩ | ⟨_, _, hf⟩ | ⟨_, _, _, _, _, hf⟩ |
      ⟨_, _, _, _, _, hf⟩ | ⟨_, _, hf⟩ | ⟨_, hf⟩ <;> cases hf
    · exact ⟨_, .inl ⟨i, he⟩⟩
    · exact ⟨_, .inl ⟨i, he⟩⟩
    · exact ⟨_, .inl ⟨_, he⟩⟩
    · exact ⟨s.inputs, .inl ⟨_, he⟩⟩
  · rcases hf with ⟨_, _, _, _, _, _, hf⟩ | ⟨_, _, _, _, _, _, hf⟩ | ⟨_, _, _, hf⟩ | ⟨_, _, hf⟩ | ⟨_, _, _, _, _, hf⟩ |
      ⟨_, _, _, _, _, hf⟩ | ⟨_, _, hf⟩ | ⟨_, hf⟩ <;> cases hf
    exact ⟨_, .inr (.inl ⟨bs, rfl⟩)⟩
  · rcases hf with ⟨_, _, _, _, _, _, hf⟩ | ⟨_, _, _, _, _, _, hf⟩ | ⟨_, _, _, hf⟩ | ⟨_, _, hf⟩ | ⟨_, _, _, _, _, hf⟩ |
      ⟨_, _, _, _, _, hf⟩ | ⟨_, _, hf⟩ | ⟨_, hf⟩ <;> cases hf
    exact ⟨_, .inr (.inr rfl)⟩

end Sys2Proof.Machine
end

