-- ==== Sys2Proof/Tests/Slice0.lean ====
section
/-! SUPPORT. Tests of the model, their expected values from the spec's own examples and vectors (95_test_vectors.md)
and from its encoding tables, and a witness for every statement that has hypotheses. -/

set_option Elab.async false

namespace Sys2Proof.Tests

open Sys2Proof.Machine

/-! ## Helpers -/

/-- The state after reset with the catalogs true for every tag, as the vectors assume. -/
def base (pos : TagPos) : State := { State.reset with params := ⟨pos, BitVec.allOnes 256, BitVec.allOnes 256⟩ }

/-- The state after reset with catalogs that hold no tag. -/
def noTags (pos : TagPos) : State := { State.reset with params := ⟨pos, 0#256, 0#256⟩ }

/-- The next state, if there is one. -/
def after (o : Host.Outcome State Fault Refusal) : Option State :=
  match o with
  | .next s => some s
  | .fault _ => none
  | .refused _ => none

/-- Something of the next state satisfies a test. -/
def next (o : Host.Outcome State Fault Refusal) (p : State → Bool) : Bool :=
  match o with
  | .next s => p s
  | .fault _ => false
  | .refused _ => false

/-- A parse of a variant in which bytes have been taken. -/
def taken (v : Variant) (q : List Byte) (s : State) : State := q.foldl (fun t b => takeByte b t) (startParse v s)

/-! ## WellFormed: one ill-formed term for each check, beside the longest accepted one -/

theorem test_wf_refuses_long_build_a :
    (Instr.txBuildA .h2d 0 0 (List.replicate 65536 0)).wf = false ∧
    (Instr.txBuildA .h2d 0 0 (List.replicate 65535 0)).wf = true := by
  simp only [Instr.wf, List.length_replicate]; decide

theorem test_wf_refuses_long_build_b :
    (Instr.txBuildB .d2h 0 0 (List.replicate 65536 0)).wf = false ∧
    (Instr.txBuildB .d2h 0 0 (List.replicate 65535 0)).wf = true := by
  simp only [Instr.wf, List.length_replicate]; decide

theorem test_wf_refuses_long_frame_a_d2h :
    (Instr.frameAD2H 0 0 (List.replicate 256 0) 0).wf = false ∧
    (Instr.frameAD2H 0 0 (List.replicate 255 0) 0).wf = true := by
  simp only [Instr.wf, List.length_replicate]; decide

theorem test_wf_refuses_long_frame_a_h2d :
    (Instr.frameAH2D 0 0 (List.replicate 256 0) 0).wf = false ∧
    (Instr.frameAH2D 0 0 (List.replicate 255 0) 0).wf = true := by
  simp only [Instr.wf, List.length_replicate]; decide

theorem test_wf_refuses_long_frame_b_d2h :
    (Instr.frameBD2H 0 0 (List.replicate 256 0) 0 0).wf = false ∧
    (Instr.frameBD2H 0 0 (List.replicate 255 0) 0 0).wf = true := by
  simp only [Instr.wf, List.length_replicate]; decide

theorem test_wf_refuses_long_frame_b_h2d :
    (Instr.frameBH2D 0 0 (List.replicate 256 0) 0 0).wf = false ∧
    (Instr.frameBH2D 0 0 (List.replicate 255 0) 0 0).wf = true := by
  simp only [Instr.wf, List.length_replicate]; decide

/-! ## Decoding: a word of every row, written out from the tables of R80, R81, R92 and R93 -/

theorem test_decode_sum_init : decode [0x10#8] = .instr .sumInit [] := by decide
theorem test_decode_sum_byte : decode [0x11#8, 0xFF#8] = .instr (.sumByte 0xFF#8) [] := by decide
theorem test_decode_sum_read : decode [0x12#8] = .instr .sumRead [] := by decide
theorem test_decode_crc_init : decode [0x20#8] = .instr .crcInit [] := by decide
theorem test_decode_crc_byte : decode [0x21#8, 0xBF#8] = .instr (.crcByte 0xBF#8) [] := by decide
theorem test_decode_crc_read : decode [0x22#8] = .instr .crcRead [] := by decide
theorem test_decode_tx_build_a :
    decode [0x30#8, 0x00#8, 0xB1#8, 0xC1#8, 0x04#8, 0x00#8, 0x33#8, 0x33#8, 0xF3#8, 0x3F#8] =
      .instr (.txBuildA .h2d 0xB1#8 0xC1#8 [0x33#8, 0x33#8, 0xF3#8, 0x3F#8]) [] := by decide
theorem test_decode_tx_build_b :
    decode [0x31#8, 0x01#8, 0x20#8, 0x01#8, 0x01#8, 0x00#8, 0x01#8] =
      .instr (.txBuildB .d2h 0x20#8 0x01#8 [0x01#8]) [] := by decide
/-- n_hi counts 256 bytes (P5, step 1). -/
theorem test_decode_tx_build_b_length_bytes :
    decodeCommand ([0x31#8, 0x01#8, 0x10#8, 0x00#8, 0x00#8, 0x01#8] ++ List.replicate 256 0x00#8 ++ [0x12#8]) =
      .instr (.txBuildB .d2h 0x10#8 0x00#8 (List.replicate 256 0x00#8)) [0x12#8] := by decide +kernel
theorem test_decode_rx_start_a : decode [0x40#8] = .instr .rxStartA [] := by decide
theorem test_decode_rx_start_b : decode [0x41#8] = .instr .rxStartB [] := by decide
theorem test_decode_rx_byte : decode [0x42#8, 0xFA#8, 0x42#8] = .instr (.rxByte 0xFA#8) [0x42#8] := by decide
theorem test_decode_rx_short : decode [0x43#8] = .instr .rxShort [] := by decide
theorem test_decode_frame_a_d2h :
    decode [0xF0#8, 0xA1#8, 0xC3#8, 0x03#8, 0xFF#8, 0xFE#8, 0xFD#8, 0xA0#8] =
      .instr (.frameAD2H 0xA1#8 0xC3#8 [0xFF#8, 0xFE#8, 0xFD#8] 0xA0#8) [] := by decide
theorem test_decode_frame_a_h2d :
    decode [0xF1#8, 0xC1#8, 0x00#8, 0x01#8, 0x01#8, 0xC3#8] =
      .instr (.frameAH2D 0xC1#8 0x00#8 [0x01#8] 0xC3#8) [] := by decide
theorem test_decode_frame_b_d2h :
    decode [0xFA#8, 0x20#8, 0x01#8, 0x01#8, 0x01#8, 0x66#8, 0x44#8, 0xEE#8] =
      .instr (.frameBD2H 0x20#8 0x01#8 [0x01#8] 0x66#8 0x44#8) [0xEE#8] := by decide
theorem test_decode_frame_b_h2d :
    decode [0xFB#8, 0x10#8, 0x00#8, 0x00#8, 0x30#8, 0xC5#8] =
      .instr (.frameBH2D 0x10#8 0x00#8 [] 0x30#8 0xC5#8) [] := by decide
/-- What has no meaning is refused by name (R94), and a frame byte is no command. -/
theorem test_decode_refusals :
    decodeCommand [0x44#8] = .rejected (.reservedCode 0x44#8) ∧
    decodeCommand [0xF0#8] = .rejected (.reservedCode 0xF0#8) ∧
    decodeCommand [0x30#8, 0x02#8, 0x00#8, 0x00#8, 0x00#8, 0x00#8] = .rejected (.reservedDirection 0x02#8) ∧
    decodeCommand [0x11#8] = .rejected .incomplete ∧
    decodeFrame [0x10#8] = .rejected (.noFrameKind 0x10#8) ∧
    decodeFrame [0xFA#8, 0x20#8, 0x01#8, 0x01#8, 0x01#8, 0x66#8] = .rejected .incomplete := by decide
/-- The table's own numbering of the bits: the second byte is bits 15 to 8. -/
theorem test_decode_table_word :
    decodeTableWord 8 0x11 = some (.sumByte 0x00#8) ∧ decodeTableWord 16 0x2A42 = some (.rxByte 0x2A#8) ∧
    decodeTableWord 32 0x000201FA = some (.frameBD2H 0x01#8 0x02#8 [] 0x00#8 0x00#8) ∧
    decodeTableWord 8 0x13 = none := by decide

/-! ## One step of each instruction -/

/-- R112. -/
theorem test_sum_init : next (exec .sumInit { base .one with sum := 0xC5#8 }) (fun t => t.sum = 0x00#8) = true := by
  decide
/-- R113: SUM = 0xFF and b = 0x01 wraps to 0x00. -/
theorem test_sum_byte_wraps :
    next (exec (.sumByte 0x01#8) { base .one with sum := 0xFF#8 }) (fun t => t.sum = 0x00#8) = true := by decide
/-- The streamed V5: SUM.BYTE 33 from E8 gives 1B. -/
theorem test_sum_byte :
    next (exec (.sumByte 0x33#8) { base .one with sum := 0xE8#8 }) (fun t => t.sum = 0x1B#8) = true := by decide
/-- R114. -/
theorem test_sum_read :
    next (exec .sumRead { base .one with sum := 0x4D#8 }) (fun t => t.ret = [0x4D#8] ∧ t.sum = 0x4D#8) = true := by
  decide
/-- R128. -/
theorem test_crc_init : next (exec .crcInit { base .one with crc := 0x40BF#16 }) (fun t => t.crc = 0xFFFF#16) = true := by
  decide
/-- V22 (conflict C1: not 0x0000). -/
theorem test_crc_byte_zero :
    next (exec (.crcByte 0x00#8) (base .one)) (fun t => t.crc = 0x40BF#16 ∧ t.rxCrc = 0xFFFF#16) = true := by decide
/-- The trace of V20: byte 32 takes 947E to F595. -/
theorem test_crc_byte :
    next (exec (.crcByte 0x32#8) { base .one with crc := 0x947E#16 }) (fun t => t.crc = 0xF595#16) = true := by decide
/-- V22: BF 40, the low byte first. -/
theorem test_crc_read :
    next (exec .crcRead { base .one with crc := 0x40BF#16 }) (fun t => t.ret = [0xBF#8, 0x40#8]) = true := by decide
/-- V41 and V42, both positions. -/
theorem test_tx_build_a :
    next (exec (.txBuildA .h2d 0xB1#8 0xC1#8 [0x33#8, 0x33#8, 0xF3#8, 0x3F#8]) (base .one)) (fun t =>
      t.txs = [0xF1#8, 0xB1#8, 0xC1#8, 0x04#8, 0x33#8, 0x33#8, 0xF3#8, 0x3F#8, 0x4D#8] ∧ t.txRes = .ok) = true ∧
    next (exec (.txBuildA .d2h 0xB1#8 0xC1#8 [0x33#8, 0x33#8, 0xF3#8, 0x3F#8]) (base .two)) (fun t =>
      t.txs = [0xF0#8, 0xB1#8, 0xC1#8, 0x04#8, 0x33#8, 0x33#8, 0xF3#8, 0x3F#8, 0x5D#8] ∧ t.ret = [0x01#8]) = true := by
  decide
/-- V46: 256 bytes are refused whole. -/
theorem test_tx_build_a_too_large :
    next (exec (.txBuildA .h2d 0x01#8 0x02#8 (List.replicate 256 0x00#8)) (base .one)) (fun t =>
      t.txs = [] ∧ t.txRes = .payloadTooLarge ∧ t.ret = [0x08#8]) = true := by
  decide +kernel
/-- V52 and V51. -/
theorem test_tx_build_b :
    next (exec (.txBuildB .d2h 0x10#8 0x02#8 [0xAA#8, 0x55#8, 0x00#8]) (base .one)) (fun t =>
      t.txs = [0xFA#8, 0x10#8, 0x02#8, 0x03#8, 0xAA#8, 0x55#8, 0x00#8, 0x25#8, 0x6B#8]) = true ∧
    next (exec (.txBuildB .h2d 0x30#8 0x07#8 [0x33#8, 0x33#8, 0xF3#8, 0x3F#8]) (base .one)) (fun t =>
      t.txs = [0xFB#8, 0x30#8, 0x07#8, 0x04#8, 0x33#8, 0x33#8, 0xF3#8, 0x3F#8, 0x35#8, 0x23#8]) = true := by
  decide +kernel
/-- V47: no payload; the CRC differs from V48's by the direction byte. -/
theorem test_tx_build_b_empty :
    next (exec (.txBuildB .h2d 0x10#8 0x00#8 []) (base .one)) (fun t =>
      t.txs = [0xFB#8, 0x10#8, 0x00#8, 0x00#8, 0x30#8, 0xC5#8] ∧ t.txRes = .ok) = true := by decide +kernel
/-- R160's example, and R248: inside a parse it is no step. -/
theorem test_rx_start_b :
    next (exec .rxStartB { base .one with rxSt := .done, rxRes := .checksumMismatch, rxCrc := 0x1234#16 }) (fun t =>
      t.rxSt = .awaitMarker ∧ t.rxRes = .none ∧ t.rxCrc = 0xFFFF#16 ∧ t.rxVar = .b) = true := by decide
theorem test_rx_start_a_refused_in_a_parse :
    exec .rxStartA { base .one with rxSt := .header } = .refused .parseActive := rfl
/-- R168's example: FA 20 01 01 01, then 66 44 verifies and 44 66 does not. -/
theorem test_rx_byte_trailer_order :
    (taken .b [0xFA#8, 0x20#8, 0x01#8, 0x01#8, 0x01#8, 0x66#8, 0x44#8] (base .one)).rxRes = .ok ∧
    (taken .b [0xFA#8, 0x20#8, 0x01#8, 0x01#8, 0x01#8, 0x44#8, 0x66#8] (base .one)).rxRes = .checksumMismatch := by
  decide +kernel
/-- V71: the byte at offset 2 is covered only where A_TAG_POS is 2. -/
theorem test_rx_byte_covered_header_byte :
    next (exec (.rxByte 0xA1#8) (taken .a [0xF0#8, 0xA1#8, 0xC2#8, 0x03#8, 0xFF#8, 0xFF#8, 0xFF#8] (base .one)))
      (fun t => t.rxRes = .ok) = true ∧
    next (exec (.rxByte 0xA1#8) (taken .a [0xF0#8, 0xA1#8, 0xC2#8, 0x03#8, 0xFF#8, 0xFF#8, 0xFF#8] (base .two)))
      (fun t => t.rxRes = .checksumMismatch) = true := by decide +kernel
/-- The third parse of P3: FA 20 01, then RX.SHORT. -/
theorem test_rx_short :
    next (exec .rxShort (taken .b [0xFA#8, 0x20#8, 0x01#8] (base .one))) (fun t =>
      t.rxSt = .done ∧ t.rxRes = .truncated ∧ t.rxCnt = 2#8 ∧ t.rxCrc = 0xF189#16 ∧ t.rxLen = 0x00#8) = true := by
  decide +kernel
/-- U8, R161. -/
theorem test_rx_short_refused_outside_a_parse : exec .rxShort (base .one) = .refused .noReadPending := rfl
/-- V69's frame: its marker is taken, its other bytes follow one a step; run whole, its checksum verifies for pos 1. -/
theorem test_frame_a_d2h :
    next (exec (.frameAD2H 0xA1#8 0xC3#8 [0xFF#8, 0xFF#8, 0xFF#8] 0xA1#8) (startParse .a (base .one))) (fun t =>
      t.rxSt = .header ∧ t.rxDir = 0xF0#8 ∧ t.rxs.length = 7) = true ∧
    next (Host.Core.run core 8 { startParse .a (base .one) with
        inputs := [.wire [0xF0#8, 0xA1#8, 0xC3#8, 0x03#8, 0xFF#8, 0xFF#8, 0xFF#8, 0xA1#8]] }) (fun t =>
      frameRecord t = some ⟨0xF0#8, 0xA1#8, 0xC3#8, 0x03#8, [0xFF#8, 0xFF#8, 0xFF#8], 0x00A1#16⟩) = true := by
  decide +kernel
/-- V66: everything of S4's frame is discarded, the marker first. -/
theorem test_frame_a_h2d :
    next (exec (.frameAH2D 0xB1#8 0xC1#8 [0x33#8, 0x33#8, 0xF3#8, 0x3F#8] 0x4D#8) (startParse .a (base .one))) (fun t =>
      t.rxSt = .awaitMarker ∧ t.rxDir = 0x00#8 ∧ t.rxs.length = 8) = true ∧
    next (Host.Core.run core 9 { startParse .a (base .one) with
        inputs := [.wire [0xF1#8, 0xB1#8, 0xC1#8, 0x04#8, 0x33#8, 0x33#8, 0xF3#8, 0x3F#8, 0x4D#8]] }) (fun t =>
      t.rxSt = .awaitMarker ∧ t.rxs = []) = true := by decide +kernel
/-- V28's accumulator after the direction byte; V60 and V62: run whole, the catalog decides. -/
theorem test_frame_b_d2h :
    next (exec (.frameBD2H 0x20#8 0x01#8 [0x01#8] 0x66#8 0x44#8) (startParse .b (base .one))) (fun t =>
      t.rxSt = .header ∧ t.rxCrc = 0x033F#16 ∧ t.rxs.length = 6) = true ∧
    next (Host.Core.run core 7 { startParse .b (noTags .one) with
        inputs := [.wire [0xFA#8, 0x20#8, 0x01#8, 0x01#8, 0x01#8, 0x66#8, 0x44#8]] }) (fun t =>
      t.rxRes = .unknownTag ∧ frameRecord t = some ⟨0xFA#8, 0x20#8, 0x01#8, 0x01#8, [0x01#8], 0x4466#16⟩) = true := by
  decide +kernel
/-- V63: refused at the first byte, the other five stay. -/
theorem test_frame_b_h2d :
    next (exec (.frameBH2D 0x10#8 0x00#8 [] 0x30#8 0xC5#8) (startParse .b (base .one))) (fun t =>
      t.rxRes = .wrongDirection ∧ t.rxDir = 0xFB#8 ∧ t.rxs.length = 5) = true := by decide +kernel
/-- R161: no parse, no read; the frame waits. -/
theorem test_frame_waits :
    next (exec (.frameAD2H 0xA1#8 0xC0#8 [] 0xA1#8) (base .one)) (fun t => t.rxSt = .idle ∧ t.rxs.length = 5) = true := by
  decide
/-- An input word is fetched and run; what is not enabled after reset is refused (R245). -/
theorem test_with_fetch_word :
    next (step ((base .one).withFetchWord 16 0x0511)) (fun t => t.sum = 0x05#8 ∧ t.inputs = []) = true ∧
    step ((base .one).withFetchWord 8 0x43) = .refused .noReadPending := ⟨by decide, rfl⟩

/-! ## Witnesses: states and operands that meet the hypotheses of each statement -/

theorem test_witness_HardwareResetKeepsTheStreams :
    ∃ (s : State) (rest : List Input), s.inputs = .reset :: rest ∧ s.rxSt = .header ∧ s.rxs ≠ [] :=
  ⟨{ base .one with inputs := [.reset], rxSt := .header, rxs := [.short] }, [], rfl, rfl, by decide⟩

theorem test_witness_SumFrameReturnsSum8 :
    (List.replicate 255 0xFF#8 : List Byte).length ≤ 255 ∧ ([] : List Byte).length ≤ 255 := by decide +kernel

theorem test_witness_SumReducedStepwiseInAnyOrder :
    ∃ p q : List Byte, p.length ≤ 255 ∧ p.Perm q ∧ p ≠ q :=
  ⟨[0x01#8, 0x02#8, 0x03#8], [0x02#8, 0x01#8, 0x03#8], by decide, by decide, by decide⟩

theorem test_witness_SumDetectsOneFlippedBit :
    ∃ (p : List Byte) (k i j : Nat), k < 8 ∧ i < p.length ∧ j < p.length ∧ (p.getD i 0).getLsbD k = true ∧
      (p.getD j 0).getLsbD k = false :=
  ⟨[0x81#8, 0x02#8], 7, 0, 1, by decide, by decide, by decide, by decide, by decide⟩

theorem test_witness_CrcUpdateIsLinearAndBijective : (0x0001#16 : Half) ≠ 0#16 := by decide

theorem test_witness_CrcDetectsOneFlippedBit :
    ∃ (q : List Byte) (i k : Nat), i < q.length ∧ k < 8 := ⟨[0x00#8], 0, 7, by decide, by decide⟩

/-- Payloads at the ends of each clause's range, for TxBuildAAppendsTheFrame, TxBuildBAppendsTheFrame,
PayloadTooLargeHasOneCause and BuiltFramesDecodeAsFrames. -/
theorem test_witness_TxBuild :
    (∃ p : List Byte, p = [] ∧ p.length ≤ 255) ∧ (∃ p : List Byte, p.length = 255 ∧ p.length ≤ 255) ∧
    (∃ p : List Byte, p.length > 255 ∧ p.length < 65536) ∧
    (∃ s : State, s.params.aTagPos = .one) ∧ (∃ s : State, s.params.aTagPos = .two) :=
  ⟨⟨[], by simp⟩, ⟨List.replicate 255 0x00#8, by decide +kernel⟩,
    ⟨List.replicate 256 0x00#8, by decide +kernel⟩,
    ⟨base .one, rfl⟩, ⟨base .two, rfl⟩⟩

/-- For RxStartBeginsAParse, RxShortTruncates and the statements about a whole parse: idle, done, and every active
stage. -/
theorem test_witness_RxStartBeginsAParse :
    (∃ s : State, s.rxSt = .idle) ∧ (∃ s : State, s.rxSt = .done) ∧ (∃ s : State, s.rxSt = .awaitMarker) ∧
    (∃ s : State, s.rxSt = .header) ∧ (∃ s : State, s.rxSt = .payload) ∧ (∃ s : State, s.rxSt = .trailer) :=
  ⟨⟨base .one, rfl⟩, ⟨{ base .one with rxSt := .done }, rfl⟩, ⟨startParse .a (base .one), rfl⟩,
    ⟨taken .b [0xFA#8] (base .one), rfl⟩, ⟨taken .b [0xFA#8, 0x20#8, 0x01#8, 0x01#8] (base .one), rfl⟩,
    ⟨taken .b [0xFA#8, 0x20#8, 0x01#8, 0x00#8] (base .one), rfl⟩⟩

theorem test_witness_TransportEventsOnlyWhileActive :
    ∃ (s u w : State) (b : Byte), s.rxSt = .header ∧ Offered (.byte b) s ∧ ¬ Offered .short s ∧
      u.rxSt = .trailer ∧ Offered .short u ∧ ¬ Offered (.byte b) u ∧ w.rxSt = .awaitMarker ∧ Offered (.byte b) w ∧
      Offered .short w :=
  ⟨{ base .one with rxSt := .header, rxs := [.byte 0x20#8, .short] }, { base .one with rxSt := .trailer, rxs := [.short] },
    { base .one with rxSt := .awaitMarker }, 0x20#8, rfl, .inr rfl, by simp [Offered], rfl, .inr rfl, by simp [Offered],
    rfl, .inl rfl, .inl rfl⟩

theorem test_witness_RxByteAwaitingTheMarker :
    ∃ s u : State, s.rxSt = .awaitMarker ∧ s.rxVar = .a ∧ Offered (.byte 0xF0#8) s ∧ Offered (.byte 0xF1#8) s ∧
      u.rxSt = .awaitMarker ∧ u.rxVar = .b ∧ Offered (.byte 0xFA#8) u ∧ Offered (.byte 0xFB#8) u :=
  ⟨startParse .a (base .one), startParse .b (base .one), rfl, rfl, .inl rfl, .inl rfl, rfl, rfl, .inl rfl, .inl rfl⟩

theorem test_witness_RxByteInTheHeader :
    ∀ n : Fin 3, ∃ s : State, s.rxSt = .header ∧ s.rxCnt.toNat = n.val ∧ s.rxCnt.toNat ≤ 2 ∧ Offered (.byte 0x00#8) s :=
  fun n => ⟨{ startParse .a (base .one) with rxSt := .header, rxCnt := BitVec.ofNat 8 n.val }, rfl,
    by fin_cases n <;> rfl, by fin_cases n <;> decide, .inl rfl⟩

/-- The first and the last payload byte of the longest payload. -/
theorem test_witness_RxByteInThePayload :
    ∃ s u : State, s.rxSt = .payload ∧ s.rxCnt.toNat = 0 ∧ s.rxCnt.toNat < s.rxLen.toNat ∧ Offered (.byte 0xF0#8) s ∧
      u.rxSt = .payload ∧ u.rxCnt.toNat + 1 = u.rxLen.toNat ∧ u.rxCnt.toNat = 254 ∧ Offered (.byte 0xF0#8) u :=
  ⟨{ startParse .a (base .one) with rxSt := .payload, rxLen := 0xFF#8 },
    { startParse .b (base .one) with rxSt := .payload, rxLen := 0xFF#8, rxCnt := 254#8 },
    rfl, rfl, by decide, .inl rfl, rfl, by decide, by decide, .inl rfl⟩

theorem test_witness_RxByteInTheTrailer :
    ∃ s u w : State, s.rxSt = .trailer ∧ s.rxVar = .a ∧ Offered (.byte 0x00#8) s ∧
      u.rxSt = .trailer ∧ u.rxVar = .b ∧ u.rxCnt = 0#8 ∧ Offered (.byte 0x00#8) u ∧
      w.rxSt = .trailer ∧ w.rxVar = .b ∧ w.rxCnt ≠ 0#8 ∧ Offered (.byte 0x00#8) w :=
  ⟨{ startParse .a (base .one) with rxSt := .trailer }, { startParse .b (base .one) with rxSt := .trailer },
    { startParse .b (base .one) with rxSt := .trailer, rxCnt := 1#8 },
    rfl, rfl, .inl rfl, rfl, rfl, rfl, .inl rfl, rfl, rfl, by decide, .inl rfl⟩

/-! ### States of the invariant -/

theorem test_inv_awaiting (v : Variant) (pos : TagPos) : StateInv (startParse v (base pos)) :=
  ⟨by simp [startParse], rfl, rfl, rfl, rfl, rfl, rfl⟩

theorem test_inv_header :
    StateInv (taken .b [0xFA#8, 0x20#8] (base .one)) := by
  refine ⟨by decide, rfl, rfl, by decide, rfl, rfl, ?_⟩
  change (taken .b [0xFA#8, 0x20#8] (base .one)).rxCrc = crc16 ([0xFA#8, 0x20#8] ++ [])
  decide +kernel

theorem test_inv_payload :
    StateInv (taken .a [0xF0#8, 0xA1#8, 0xC3#8, 0x02#8, 0xFF#8] (base .two)) := by
  refine ⟨by decide +kernel, by decide +kernel, by decide +kernel, by decide, rfl, [0xFF#8], by decide +kernel, rfl, ?_⟩
  change (taken .a [0xF0#8, 0xA1#8, 0xC3#8, 0x02#8, 0xFF#8] (base .two)).rxSum = sumBytes [0xC3#8, 0x02#8, 0xFF#8]
  decide +kernel

theorem test_inv_trailer :
    StateInv (taken .b [0xFA#8, 0x20#8, 0x01#8, 0x01#8, 0x01#8, 0x66#8] (base .one)) := by
  refine ⟨by decide +kernel, by decide +kernel, by decide +kernel, by decide +kernel, by decide +kernel, by decide +kernel,
    [0x01#8], by decide +kernel, rfl, ?_⟩
  change (taken .b [0xFA#8, 0x20#8, 0x01#8, 0x01#8, 0x01#8, 0x66#8] (base .one)).rxCrc =
    crc16 [0xFA#8, 0x20#8, 0x01#8, 0x01#8, 0x01#8]
  decide +kernel

/-- The end of P3's first parse: V60's frame, taken whole. -/
def accepted : State :=
  { startParse .b (base .one) with
    rxSt := .done, rxRes := .ok, rxCnt := 1#8, rxDir := 0xFA#8, rxB1 := 0x20#8, rxB2 := 0x01#8, rxLen := 0x01#8,
    rxCrc := 0x4466#16, rxChk := 0x4466#16, rxPbuf := [(0, 0x01#8)] }

theorem test_accepted : taken .b [0xFA#8, 0x20#8, 0x01#8, 0x01#8, 0x01#8, 0x66#8, 0x44#8] (base .one) = accepted := by
  decide +kernel

/-- The invariant holds there and the result port has the record. -/
theorem test_witness_AcceptedFramesVerify :
    StateInv accepted ∧ frameRecord accepted = some ⟨0xFA#8, 0x20#8, 0x01#8, 0x01#8, [0x01#8], 0x4466#16⟩ := by
  refine ⟨⟨by decide +kernel, by decide +kernel, by decide +kernel, fun _ => ?_⟩, by decide +kernel⟩
  refine ⟨[0x01#8], rfl, ⟨rfl, ?_⟩, by decide +kernel, rfl⟩
  change 0x4466#16 = crc16 [0xFA#8, 0x20#8, 0x01#8, 0x01#8, 0x01#8]
  decide +kernel

/-- With nothing issued, an active parse takes the waiting event; StepKeepsTheInvariant and ConstantsStayConstant. -/
theorem test_witness_StepKeepsTheInvariant :
    ∃ s t : State, StateInv s ∧ step s = .next t ∧ t.rxSt = .header :=
  ⟨{ startParse .a (base .one) with rxs := [.byte 0xF0#8] }, _, ⟨by decide, rfl, rfl, rfl, rfl, rfl, rfl⟩, rfl, rfl⟩

/-- Each kind of operation makes a step from a state of the invariant. -/
theorem test_witness_TransitionsAreThoseOfTheTable :
    StateInv (startParse .a (base .one)) ∧ StateInv (taken .b [0xFA#8, 0x20#8] (base .one)) ∧
    (after (exec (.rxByte 0x00#8) (startParse .a (base .one)))).isSome = true ∧
    (after (exec (.rxByte 0xF0#8) (startParse .a (base .one)))).isSome = true ∧
    (after (exec (.rxByte 0x01#8) (taken .b [0xFA#8, 0x20#8] (base .one)))).isSome = true ∧
    (after (exec .rxShort (startParse .b (base .one)))).isSome = true ∧
    (after (exec .rxStartA (base .one))).isSome = true ∧ (after (exec .sumRead (base .one))).isSome = true :=
  ⟨test_inv_awaiting _ _, test_inv_header, by decide, by decide, by decide +kernel, by decide, by decide, by decide⟩

/-! ### Whole parses -/

/-- For ParseBMatchesTheClosedForm, ParseAMatchesTheClosedForm and ParseDoesNotDependOnThePast: V63 (wrong direction)
and V69 (noise before the marker) are among the buffers. -/
theorem test_witness_ParseMatchesTheClosedForm :
    (base .one).rxSt = .idle ∧ (taken .b [0xFB#8] (base .one)).rxSt = .done ∧
    (taken .b [0xFB#8] (base .one)).params = (base .one).params ∧
    (closedB (base .one).params [0xFB#8, 0x10#8, 0x00#8, 0x00#8, 0x30#8, 0xC5#8]).res = .wrongDirection ∧
    (closedA (base .two).params
      [0x00#8, 0xF1#8, 0xFA#8, 0xF0#8, 0xA1#8, 0xC3#8, 0x03#8, 0xFF#8, 0xFF#8, 0xFF#8, 0xC3#8]).consumed = 11 := by
  decide +kernel

theorem test_witness_HostToDeviceFrameIsNotAccepted :
    ∃ (s : State) (p : List Byte), p.length ≤ 255 ∧ s.rxSt = .idle ∧
      0xF0#8 ∉ frameA s.params.aTagPos .h2d 0xB1#8 0xC1#8 p :=
  ⟨base .one, [0x33#8, 0x33#8, 0xF3#8, 0x3F#8], by decide, rfl, by decide⟩

theorem test_witness_ProperPrefixesAreTruncated :
    0 < (frameB .d2h 0x20#8 0x01#8 [0x01#8]).length ∧ 6 < (frameB .d2h 0x20#8 0x01#8 [0x01#8]).length ∧
    4 < (frameA .one .d2h 0xA1#8 0xC0#8 []).length := by decide

/-- V79 raises the length; every clause's position is inside the frame. -/
theorem test_witness_OneFlippedBitInAFrame :
    (BitVec.ofNat 8 ([0x01#8] : List Byte).length).getLsbD 1 = false ∧
    flipBit (frameB .d2h 0x20#8 0x01#8 [0x01#8]) 3 1 = [0xFA#8, 0x20#8, 0x01#8, 0x03#8, 0x01#8, 0x66#8, 0x44#8] ∧
    flipBit (frameB .d2h 0x20#8 0x01#8 [0x01#8]) 6 0 = [0xFA#8, 0x20#8, 0x01#8, 0x01#8, 0x01#8, 0x66#8, 0x45#8] ∧
    0xF0#8 ∉ (frameA .one .d2h 0xA1#8 0xC0#8 []).drop 1 := by decide +kernel

theorem test_witness_ParseEndsWithin261Bytes :
    ∃ (s : State) (q : List Byte), StateInv s ∧ s.rxSt.isActive = true ∧ s.rxVar = .b ∧ s.rxs = [] ∧ q.length = 261 :=
  ⟨startParse .b (base .one), List.replicate 261 0xFF#8, test_inv_awaiting _ _, rfl, rfl, rfl, by decide +kernel⟩

theorem test_witness_ParseEndsWithin261Bytes_variant_a :
    StateInv (taken .a [0xF0#8, 0xA1#8, 0xC3#8, 0x02#8, 0xFF#8] (base .two)) ∧
    (taken .a [0xF0#8, 0xA1#8, 0xC3#8, 0x02#8, 0xFF#8] (base .two)).rxSt ≠ .awaitMarker ∧
    (taken .a [0xF0#8, 0xA1#8, 0xC3#8, 0x02#8, 0xFF#8] (base .two)).rxs = [] := ⟨test_inv_payload, by decide, rfl⟩

/-- What the outside issues in `fairRun`: a short read at once, then SUM.INIT for ever. -/
def fairGiven : Nat → List Input
  | 0 => [.command [0x43#8]]
  | _ + 1 => [.command [0x10#8]]

/-- A run in which the one read of a variant B parse is answered with a short read. -/
def fairRun : Nat → State
  | 0 => startParse .b (base .one)
  | _ + 1 => raiseRx .truncated (startParse .b (base .one))

theorem test_witness_FairTransportEndsTheParse :
    IsRun fairGiven fairRun ∧ TransportFair fairGiven fairRun ∧ StateInv (fairRun 0) ∧
    (fairRun 0).rxSt.isActive = true ∧ (fairRun 0).rxVar = .b := by
  refine ⟨fun n => ?_, fun n h => ?_, test_inv_awaiting _ _, rfl, rfl⟩
  · cases n <;> rfl
  · cases n with
    | zero => exact ⟨0, Nat.le_refl _, fun _ => rfl⟩
    | succ n => cases h

theorem test_witness_VariantAScanDiscardsNoise :
    ∃ (s : State) (q : List Byte), s.rxSt = .awaitMarker ∧ s.rxVar = .a ∧ s.rxs = q.map .byte ∧ 0xF0#8 ∉ q ∧ q ≠ [] :=
  ⟨{ startParse .a (base .one) with rxs := [.byte 0xF1#8, .byte 0xFA#8] }, [0xF1#8, 0xFA#8], rfl, rfl, rfl, by decide,
    by decide⟩

/-! ### Frames -/

theorem test_witness_FrameIsItsBytesOneByOne :
    isFrame (.frameAD2H 0xA1#8 0xC3#8 [] 0xA1#8) = true ∧ isFrame (.frameAH2D 0xA1#8 0xC3#8 [] 0xA1#8) = true ∧
    isFrame (.frameBD2H 0x20#8 0x01#8 [] 0x66#8 0x44#8) = true ∧ isFrame (.frameBH2D 0x20#8 0x01#8 [] 0x66#8 0x44#8) = true ∧
    (Instr.frameBH2D 0x20#8 0x01#8 [] 0x66#8 0x44#8).wf = true ∧
    (startParse .a (base .one)).rxSt.isActive = true ∧ (startParse .a (base .one)).rxs = [] := by decide

/-- A frame behind a short read that waits: the short read is what is taken. -/
theorem test_witness_FrameIsItsBytesOneByOne_waiting :
    ∃ (s : State) (es : List RxEvent), s.rxSt.isActive = true ∧
      s.rxs ++ (encode (.frameAD2H 0xA1#8 0xC3#8 [] 0xA1#8)).map .byte = .short :: es :=
  ⟨{ startParse .a (base .one) with rxs := [.short] }, _, rfl, rfl⟩

/-- For DeviceToHostFramesAreTaken too. -/
theorem test_witness_FramesAreTakenOrNot :
    ∃ s u w : State, s.rxSt = .awaitMarker ∧ s.rxs = [] ∧ s.rxVar = .a ∧
      0xF0#8 ∉ encode (.frameAH2D 0xB1#8 0xC1#8 [0x33#8] 0x4D#8) ∧ u.rxSt = .awaitMarker ∧ u.rxs = [] ∧ u.rxVar = .b ∧
      w.rxSt = .idle ∧ w.rxs = [] ∧ (List.replicate 255 0x33#8 : List Byte).length ≤ 255 :=
  ⟨startParse .a (base .one), startParse .b (base .one), base .one, rfl, rfl, rfl, by decide, rfl, rfl, rfl, rfl, rfl,
    by decide +kernel⟩

theorem test_witness_FramesWaitWhileNoParseIsActive :
    isFrame (.frameAD2H 0xA1#8 0xC3#8 [] 0xA1#8) = true ∧ (base .one).rxSt = .idle := by decide

/-! ### Whole-machine rules -/

/-- P4: an RX.BYTE and a CRC.BYTE, both steps, of two units. -/
theorem test_witness_UnitsDoNotDisturbEachOther :
    partOf (.rxByte 0xFA#8) ≠ partOf (.crcByte 0x00#8) ∧
    (after (execAll [.rxByte 0xFA#8, .crcByte 0x00#8] (startParse .b (base .one)))).isSome = true := by
  decide +kernel

theorem test_witness_TransmitStreamGrowsByWholeFrames :
    ∃ s t : State, step s = .next t ∧ t.txs ≠ s.txs :=
  ⟨{ base .one with inputs := [.command [0x30#8, 0x01#8, 0x00#8, 0x00#8, 0x00#8, 0x00#8]] }, _, rfl, by decide⟩

/-- An operation that takes an event, and a frame. -/
theorem test_witness_ReceiveStreamIsTakenInOrder :
    (after (exec (.rxByte 0x00#8) (startParse .a (base .one)))).isSome = true ∧ isFrame (.rxByte 0x00#8) = false ∧
    (after (exec (.frameAD2H 0xA1#8 0xC3#8 [] 0xA1#8) (base .one))).isSome = true := by decide

theorem test_witness_ResultsStayUntilTheNextCall :
    ∃ s t u : State, exec (.sumByte 0x01#8) s = .next t ∧ s.rxSt = .done ∧ s.rxRes = .checksumMismatch ∧
      partOf (.sumByte 0x01#8) ≠ .tx ∧ step { s with inputs := [.command [0x10#8]] } = .next u ∧
      fetch { s with inputs := [.command [0x10#8]] } = .run .sumInit { s with inputs := [] } :=
  ⟨{ base .one with rxSt := .done, rxRes := .checksumMismatch }, _, _, rfl, rfl, rfl, by decide, rfl, rfl⟩

theorem test_witness_StandaloneUnitsRaiseNothing :
    partOf (.sumByte 0x01#8) = .sum ∧ partOf .crcRead = .crc ∧ (base .one).rxSt = .idle := by decide

/-! ### Encoding and fetching -/

theorem test_witness_DecodeOfEncodeIsTheInstruction :
    (Instr.txBuildB .d2h 0xFF#8 0x00#8 (List.replicate 256 0x00#8)).wf = true ∧
    (Instr.frameBH2D 0xFF#8 0x00#8 (List.replicate 255 0x00#8) 0x00#8 0xFF#8).wf = true ∧
    decode [0x42#8, 0x01#8] = .instr (.rxByte 0x01#8) [] := by decide +kernel

theorem test_witness_ReservedEncodingsAreRefused :
    ∃ (s : State) (bs : List Byte), s.inputs = [.command bs] ∧ decodeCommand bs = .rejected (.reservedCode 0x00#8) ∧
      decodeCommand [0x31#8, 0xFF#8, 0x00#8, 0x00#8, 0x00#8, 0x00#8] = .rejected (.reservedDirection 0xFF#8) :=
  ⟨{ base .one with inputs := [.command [0x00#8]] }, [0x00#8], rfl, by decide, by decide⟩

/-- A state for each clause: a command with bytes after it, a wire frame, noise in a parse, noise outside one, no bytes at
all, the transport's turn with and without an event, a waiting byte, a waiting short read, silence, and nothing to do. -/
theorem test_witness_StepRunsTheDecodedInstruction :
    (∃ s : State, s.inputs = [.command [0x10#8, 0x12#8]] ∧ decodeCommand [0x10#8, 0x12#8] = .instr .sumInit [0x12#8]) ∧
    (∃ s : State, s.inputs = [.wire [0xF0#8, 0xA1#8, 0xC0#8, 0x00#8, 0xA1#8]] ∧
      decodeFrame [0xF0#8, 0xA1#8, 0xC0#8, 0x00#8, 0xA1#8] = .instr (.frameAD2H 0xA1#8 0xC0#8 [] 0xA1#8) []) ∧
    (∃ s : State, s.inputs = [.wire [0x00#8]] ∧ decodeFrame [0x00#8] = .rejected (.noFrameKind 0x00#8) ∧
      s.rxSt.isActive = true ∧ s.rxs ++ [0x00#8].map .byte = .byte 0x00#8 :: []) ∧
    (∃ s : State, s.inputs = [.wire [0x00#8]] ∧ s.rxSt.isActive = false) ∧
    (∃ s : State, s.inputs = [.wire []] ∧ decodeFrame [] = .rejected .incomplete ∧ s.rxs ++ ([] : List Byte).map .byte = []) ∧
    (∃ s : State, s.inputs = [.transport] ∧ s.rxs = [.short]) ∧
    (∃ s : State, s.inputs = [.transport] ∧ s.rxs = [] ∧ s.rxSt.isActive = true) ∧
    (∃ s : State, s.inputs = [.transport] ∧ s.rxs = [] ∧ s.rxSt.isActive = false) ∧
    (∃ s : State, s.inputs = [] ∧ s.rxSt.isActive = true ∧ s.rxs = [.byte 0xF0#8]) ∧
    (∃ s : State, s.inputs = [] ∧ s.rxSt.isActive = true ∧ s.rxs = [.short]) ∧
    (∃ s : State, s.inputs = [] ∧ s.rxSt.isActive = true ∧ s.rxs = []) ∧
    (∃ s : State, s.inputs = [] ∧ s.rxSt.isActive = false) :=
  ⟨⟨{ base .one with inputs := [.command [0x10#8, 0x12#8]] }, rfl, by decide⟩,
    ⟨{ base .one with inputs := [.wire [0xF0#8, 0xA1#8, 0xC0#8, 0x00#8, 0xA1#8]] }, rfl, by decide⟩,
    ⟨{ startParse .a (base .one) with inputs := [.wire [0x00#8]] }, rfl, by decide, rfl, rfl⟩,
    ⟨{ base .one with inputs := [.wire [0x00#8]] }, rfl, rfl⟩,
    ⟨{ base .one with inputs := [.wire []] }, rfl, rfl, rfl⟩,
    ⟨{ startParse .a (base .one) with inputs := [.transport], rxs := [.short] }, rfl, rfl⟩,
    ⟨{ startParse .a (base .one) with inputs := [.transport] }, rfl, rfl, rfl⟩,
    ⟨{ base .one with inputs := [.transport] }, rfl, rfl, rfl⟩,
    ⟨{ startParse .a (base .one) with rxs := [.byte 0xF0#8] }, rfl, rfl, rfl⟩,
    ⟨{ startParse .a (base .one) with rxs := [.short] }, rfl, rfl, rfl⟩,
    ⟨startParse .a (base .one), rfl, rfl, rfl⟩, ⟨base .one, rfl, rfl⟩⟩

end Sys2Proof.Tests
end

section
/-! SUPPORT. The flag-like values of 10_state.md R33, each by what the status registers hold. -/

namespace Sys2Proof.Machine

variable {s : State}

@[simp] theorem rxDone_iff : rxDone s = true ↔ s.rxSt = .done := decide_eq_true_iff

@[simp] theorem rxFrameValid_iff :
    rxFrameValid s = true ↔ s.rxSt = .done ∧ (s.rxRes = .ok ∨ s.rxRes = .unknownTag) := by
  simp [rxFrameValid]

@[simp] theorem rxTagKnown_iff : rxTagKnown s = true ↔ s.rxSt = .done ∧ s.rxRes = .ok := by
  simp [rxTagKnown]

@[simp] theorem rxNoFrame_iff : rxNoFrame s = true ↔ s.rxSt = .done ∧ s.rxRes = .truncated := by
  simp [rxNoFrame]

@[simp] theorem rxFault_iff :
    rxFault s = true ↔
      s.rxSt = .done ∧ (s.rxRes = .wrongDirection ∨ s.rxRes = .checksumMismatch ∨ s.rxRes = .unknownTag) := by
  simp [rxFault, or_assoc]

@[simp] theorem txOk_iff : txOk s = true ↔ s.txRes = .ok := decide_eq_true_iff

end Sys2Proof.Machine
end

section
/-! PROOFS. The statements about the state (10_state.md). -/

namespace Sys2Proof.Machine

/-- Settles O53, flag by flag: each is the conjunction R33 gives for it. -/
theorem flagsAreFunctionsOfTheStatus : Obligations.FlagsAreFunctionsOfTheStatus := fun _ =>
  ⟨rxDone_iff, rxFrameValid_iff, rxTagKnown_iff, rxNoFrame_iff, rxFault_iff, txOk_iff⟩

end Sys2Proof.Machine
end

section
/-! SUPPORT. A code byte selects its row's operand decoder (R92); operations run one after another (R71). -/

namespace Sys2Proof

theorem decodeCommand_toByte (op : OpCode) (rest : List Byte) :
    decodeCommand (op.toByte :: rest) = decodeOperands op rest := by
  simp only [decodeCommand, opCode_ofByte_toByte]

namespace Machine

@[simp] theorem execAll_nil (s : State) : execAll [] s = .next s := rfl

/-- An operation that answers a next state hands it to the operations behind it. -/
theorem execAll_cons_of_next {i : Instr} {s t : State} (h : exec i s = .next t) (is : List Instr) :
    execAll (i :: is) s = execAll is t := by
  simp only [execAll, h, andThen]

end Machine
end Sys2Proof
end

section
/-! SUPPORT. The modular-sum unit's operations, each by its whole next state (R112, R113, R114). -/

namespace Sys2Proof.Machine

theorem exec_sumInit (s : State) : exec .sumInit s = .next { s with sum := 0x00#8, ret := [] } := rfl

theorem exec_sumByte (b : Byte) (s : State) : exec (.sumByte b) s = .next { s with sum := s.sum + b, ret := [] } := rfl

theorem exec_sumRead (s : State) : exec .sumRead s = .next { s with ret := [s.sum] } := rfl

/-- SUM.INIT leaves nothing of what ran before it in SUM. -/
@[simp] theorem execAll_sumInit_cons (is : List Instr) (s : State) :
    execAll (.sumInit :: is) s = execAll is { s with sum := 0x00#8, ret := [] } :=
  execAll_cons_of_next (exec_sumInit s) is

@[simp] theorem execAll_sumByte_cons (b : Byte) (is : List Instr) (s : State) :
    execAll (.sumByte b :: is) s = execAll is { s with sum := s.sum + b, ret := [] } :=
  execAll_cons_of_next (exec_sumByte b s) is

@[simp] theorem execAll_sumRead_cons (is : List Instr) (s : State) :
    execAll (.sumRead :: is) s = execAll is { s with ret := [s.sum] } :=
  execAll_cons_of_next (exec_sumRead s) is

end Sys2Proof.Machine
end

section
/-! PROOFS. The statements about SUM.INIT and SUM.READ (40_sum_checksum.md). -/

namespace Sys2Proof.Machine

/-- Settles O3: SUM.INIT overwrites SUM and the returned bytes only, so a second one finds nothing to change. -/
theorem sumInitClearsSum : Obligations.SumInitClearsSum := by
  intro s rest
  refine ⟨decodeCommand_toByte .sumInit rest, exec_sumInit s, ?twice, ?read, rfl⟩
  case twice => simp [exec_sumInit]
  case read => simp

/-- Settles O5: SUM.READ keeps SUM, so the next one returns it again; 0xFF + 0x02 wraps to 0x01. -/
theorem sumReadReturnsSum : Obligations.SumReadReturnsSum := by
  intro s rest
  refine ⟨decodeCommand_toByte .sumRead rest, exec_sumRead s, ?twice, ?wraps⟩
  case twice => simp [exec_sumRead]
  case wraps => simp

end Sys2Proof.Machine
end

section
/-! SUPPORT. The CRC unit's operations, each by its whole next state (R128, R129, R130), and the two bytes CRC.READ
returns as remainder and quotient by 256 (R11). -/

namespace Sys2Proof.Machine

theorem lo_eq_ofNat_mod (c : Half) : lo c = BitVec.ofNat 8 (c.toNat % 256) := by
  apply BitVec.eq_of_toNat_eq
  simp [toNat_lo]

theorem hi_eq_ofNat_div (c : Half) : hi c = BitVec.ofNat 8 (c.toNat / 256) := by
  rw [← toNat_hi, BitVec.ofNat_toNat, BitVec.setWidth_eq]

theorem exec_crcInit (s : State) : exec .crcInit s = .next { s with crc := crcInitValue, ret := [] } := rfl

theorem exec_crcByte (b : Byte) (s : State) :
    exec (.crcByte b) s = .next { s with crc := crcUpdate s.crc b, ret := [] } := rfl

theorem exec_crcRead (s : State) : exec .crcRead s = .next { s with ret := [lo s.crc, hi s.crc] } := rfl

/-- CRC.INIT leaves nothing of what ran before it in CRC. -/
@[simp] theorem execAll_crcInit_cons (is : List Instr) (s : State) :
    execAll (.crcInit :: is) s = execAll is { s with crc := crcInitValue, ret := [] } :=
  execAll_cons_of_next (exec_crcInit s) is

@[simp] theorem execAll_crcByte_cons (b : Byte) (is : List Instr) (s : State) :
    execAll (.crcByte b :: is) s = execAll is { s with crc := crcUpdate s.crc b, ret := [] } :=
  execAll_cons_of_next (exec_crcByte b s) is

@[simp] theorem execAll_crcRead_cons (is : List Instr) (s : State) :
    execAll (.crcRead :: is) s = execAll is { s with ret := [lo s.crc, hi s.crc] } :=
  execAll_cons_of_next (exec_crcRead s) is

end Sys2Proof.Machine
end

section
/-! PROOFS. The statements about CRC.INIT and CRC.READ (41_crc16.md). -/

namespace Sys2Proof.Machine

/-- Settles O9: CRC.INIT overwrites CRC and the returned bytes only, so a second one finds nothing to change; both
bytes of the start value are 0xFF. -/
theorem crcInitLoadsStartValue : Obligations.CrcInitLoadsStartValue := by
  intro s rest
  have hlo : lo 0xFFFF#16 = 0xFF#8 := by decide
  have hhi : hi 0xFFFF#16 = 0xFF#8 := by decide
  refine ⟨decodeCommand_toByte .crcInit rest, exec_crcInit s, ?twice, ?read⟩
  case twice => simp [exec_crcInit]
  case read => simp [crcInitValue, hlo, hhi]

/-- Settles O11: CRC.READ keeps CRC, so the next one returns it again; one zero byte takes the start value to
0x40BF, which is returned low byte first. -/
theorem crcReadReturnsLowByteFirst : Obligations.CrcReadReturnsLowByteFirst := by
  intro s rest
  have hupdate : crcUpdate crcInitValue 0x00#8 = 0x40BF#16 := by decide
  have hlo : lo 0x40BF#16 = 0xBF#8 := by decide
  have hhi : hi 0x40BF#16 = 0x40#8 := by decide
  refine ⟨decodeCommand_toByte .crcRead rest, ?read, ?twice, ?zeroByte⟩
  case read => rw [exec_crcRead, lo_eq_ofNat_mod, hi_eq_ofNat_div]
  case twice => simp [exec_crcRead]
  case zeroByte => simp [hupdate, hlo, hhi]

end Sys2Proof.Machine
end

section
/-! SUPPORT. Which stages are active (R36), and when a start answers a next state and when it is refused (R160). -/

namespace Sys2Proof.Machine

theorem RxStage.isActive_eq_false_iff {st : RxStage} : st.isActive = false ↔ st = .idle ∨ st = .done := by
  cases st <;> simp [isActive]

theorem RxStage.isActive_eq_true_iff {st : RxStage} :
    st.isActive = true ↔ st = .awaitMarker ∨ st = .header ∨ st = .payload ∨ st = .trailer := by
  cases st <;> simp [isActive]

/-- A start: when it is refused, and with which reason; `start_eq_next` is its other half. -/
theorem start_eq_refused {v : Variant} {s : State} {r : Refusal} :
    start v s = .refused r ↔ s.rxSt.isActive = true ∧ r = .parseActive := by
  unfold start
  cases s.rxSt.isActive <;> simp [eq_comm]

theorem exec_rxStartA (s : State) : exec .rxStartA s = start .a s := rfl

theorem exec_rxStartB (s : State) : exec .rxStartB s = start .b s := rfl

end Sys2Proof.Machine
end

section
/-! PROOFS. The statement about RX.START_A and RX.START_B (43_frame_decode.md). -/

namespace Sys2Proof.Machine

/-- Settles O21: IDLE and DONE are the stages where no parse is active, there a start answers the state `startParse`
gives; in the four others it is refused. -/
theorem rxStartBeginsAParse : Obligations.RxStartBeginsAParse := by
  intro s rest
  rw [exec_rxStartA, exec_rxStartB]
  refine ⟨decodeCommand_toByte .rxStartA rest, decodeCommand_toByte .rxStartB rest, ?begins, ?refused⟩
  case begins =>
    intro h
    have hinactive : s.rxSt.isActive = false := RxStage.isActive_eq_false_iff.mpr h
    exact ⟨start_eq_next.mpr ⟨hinactive, rfl⟩, start_eq_next.mpr ⟨hinactive, rfl⟩⟩
  case refused =>
    intro h
    have hactive : s.rxSt.isActive = true := RxStage.isActive_eq_true_iff.mpr h
    exact ⟨start_eq_refused.mpr ⟨hactive, rfl⟩, start_eq_refused.mpr ⟨hactive, rfl⟩⟩

end Sys2Proof.Machine
end

section
/-! SUPPORT. The frame assembler: what a build answers, and which result it leaves (R147, R148, R149). -/

namespace Sys2Proof.Machine

/-- A build of either variant answers `build` of its own frame (R147, R148). -/
theorem exec_buildInstr (v : Variant) (d : Direction) (b1 b2 : Byte) (p : List Byte) (s : State) :
    ∃ frame, exec (buildInstr v d b1 b2 p) s = .next (build frame p s) := by
  cases v
  case a => exact ⟨frameA s.params.aTagPos d b1 b2 p, rfl⟩
  case b => exact ⟨frameB d b1 b2 p, rfl⟩

theorem build_of_gt {p : List Byte} (h : p.length > 255) (frame : List Byte) (s : State) :
    build frame p s = reply [TxRes.payloadTooLarge.byte] (raiseTx .payloadTooLarge s) := if_pos h

/-- What a build leaves in TX_RES depends on the payload's length only. -/
@[simp] theorem build_txRes (frame p : List Byte) (s : State) :
    (build frame p s).txRes = if p.length > 255 then .payloadTooLarge else .ok :=
  apply_ite State.txRes _ _ _

end Sys2Proof.Machine
end

section
/-! SUPPORT. What answers a next state without raising a result: the standalone units' operations, each with
its frame (R45), and a start where no parse is active (R208). -/

namespace Sys2Proof.Machine

/-- An operation of the sum unit answers a next state, and writes SUM and the returned bytes only. -/
theorem exec_of_partOf_sum {i : Instr} (h : partOf i = .sum) (s : State) :
    ∃ v r, exec i s = .next { s with sum := v, ret := r } :=
  match i, h with
  | .sumInit, _ => ⟨_, _, exec_sumInit s⟩
  | .sumByte b, _ => ⟨_, _, exec_sumByte b s⟩
  | .sumRead, _ => ⟨_, _, exec_sumRead s⟩

/-- An operation of the CRC unit answers a next state, and writes CRC and the returned bytes only. -/
theorem exec_of_partOf_crc {i : Instr} (h : partOf i = .crc) (s : State) :
    ∃ v r, exec i s = .next { s with crc := v, ret := r } :=
  match i, h with
  | .crcInit, _ => ⟨_, _, exec_crcInit s⟩
  | .crcByte b, _ => ⟨_, _, exec_crcByte b s⟩
  | .crcRead, _ => ⟨_, _, exec_crcRead s⟩

/-- Where no parse is active, a start of either variant answers `startParse` of it. -/
theorem start_of_idle_or_done (v : Variant) {s : State} (h : s.rxSt = .idle ∨ s.rxSt = .done) :
    start v s = .next (reply [] (startParse v s)) :=
  start_eq_next.mpr ⟨RxStage.isActive_eq_false_iff.mpr h, rfl⟩

end Sys2Proof.Machine
end

section
/-! PROOFS. The statements about results and what raises them (60_exceptions.md). -/

namespace Sys2Proof.Machine

/-- Settles O19: both variants answer `build`, whose result is decided by the length of the payload alone; above 255
bytes it is `raiseTx`, which writes nothing but TX_RES. -/
theorem payloadTooLargeHasOneCause : Obligations.PayloadTooLargeHasOneCause := by
  intro s v d b1 b2 p
  obtain ⟨frame, hexec⟩ := exec_buildInstr v d b1 b2 p s
  refine ⟨build frame p s, hexec, ?cause, ?recordsNothing, ?code⟩
  case cause => simp
  case recordsNothing =>
    intro hlong
    rw [build_of_gt hlong]
    rfl
  case code =>
    rw [build_txRes]
    split <;> rfl

/-- Settles O54, unit by unit: none of the registers that an operation of the sum or CRC unit writes is a status
register, and a start is enabled in IDLE and DONE, where it clears RX_RES. -/
theorem standaloneUnitsRaiseNothing : Obligations.StandaloneUnitsRaiseNothing := by
  intro s i
  refine ⟨?units, ?starts⟩
  case units =>
    rintro (hsum | hcrc)
    · obtain ⟨_, _, hexec⟩ := exec_of_partOf_sum hsum s
      exact ⟨_, hexec, rfl, rfl, rfl⟩
    · obtain ⟨_, _, hexec⟩ := exec_of_partOf_crc hcrc s
      exact ⟨_, hexec, rfl, rfl, rfl⟩
  case starts =>
    rintro (rfl | rfl) hst
    · exact ⟨_, (exec_rxStartA s).trans (start_of_idle_or_done .a hst), rfl, rfl⟩
    · exact ⟨_, (exec_rxStartB s).trans (start_of_idle_or_done .b hst), rfl, rfl⟩

end Sys2Proof.Machine
end

section
/-! SUPPORT. The decoder, a table row at a time: what it answers on the bytes of the row's encoding, and what the
bytes are when it answers an instruction (R80, R81, R92, R93). -/

namespace Sys2Proof

/-- A frame kind on the wire selects its row's body decoder (R87). -/
theorem decodeFrame_toByte (k : FrameKind) (rest : List Byte) :
    decodeFrame (k.toByte :: rest) = decodeBody k rest := by
  simp only [decodeFrame, frameKind_ofByte_toByte]

theorem decode_frameKind (k : FrameKind) (rest : List Byte) : decode (k.toByte :: rest) = decodeBody k rest := by
  simp only [decode, frameKind_ofByte_toByte]

theorem decode_opCode (op : OpCode) (rest : List Byte) : decode (op.toByte :: rest) = decodeOperands op rest := by
  simp only [decode, frameKind_ofByte_opCode, decodeCommand_toByte]

/-! ## The encoding decodes -/

theorem decodeBuild_encoded (mk : Direction → Byte → Byte → List Byte → Instr) (d : Direction) (b1 b2 : Byte)
    {p : List Byte} (h : p.length < 65536) (rest : List Byte) :
    decodeBuild mk (d.toByte :: b1 :: b2 :: lengthLo p.length :: lengthHi p.length :: (p ++ rest)) =
      .instr (mk d b1 b2 p) rest := by
  simp [decodeBuild, lengthOperand_bytes h]

theorem decodeBodyA_encoded (mk : Byte → Byte → List Byte → Byte → Instr) (tag field chk : Byte) {p : List Byte}
    (h : p.length < 256) (rest : List Byte) :
    decodeBodyA mk (tag :: field :: BitVec.ofNat 8 p.length :: (p ++ chk :: rest)) =
      .instr (mk tag field p chk) rest := by
  simp only [decodeBodyA, toNat_lenByte h]
  simp

theorem decodeBodyB_encoded (mk : Byte → Byte → List Byte → Byte → Byte → Instr) (op sequence crcLo crcHi : Byte)
    {p : List Byte} (h : p.length < 256) (rest : List Byte) :
    decodeBodyB mk (op :: sequence :: BitVec.ofNat 8 p.length :: (p ++ crcLo :: crcHi :: rest)) =
      .instr (mk op sequence p crcLo crcHi) rest := by
  simp only [decodeBodyB, toNat_lenByte h]
  simp

/-! ## What decodes is an encoding -/

theorem lengthLo_lengthOperand (nLo nHi : Byte) : lengthLo (lengthOperand nLo nHi) = nLo := by
  apply BitVec.eq_of_toNat_eq
  simp only [lengthOperand, lengthLo, BitVec.toNat_ofNat]
  omega

theorem lengthHi_lengthOperand (nLo nHi : Byte) : lengthHi (lengthOperand nLo nHi) = nHi := by
  apply BitVec.eq_of_toNat_eq
  simp only [lengthOperand, lengthHi, BitVec.toNat_ofNat]
  omega

theorem decodeOneByte_eq_instr {mk : Byte → Instr} {bs rest : List Byte} {i : Instr}
    (h : decodeOneByte mk bs = .instr i rest) : ∃ b, i = mk b ∧ bs = b :: rest := by
  unfold decodeOneByte at h
  split at h
  · cases h; exact ⟨_, rfl, rfl⟩
  · cases h

theorem decodeBuild_eq_instr {mk : Direction → Byte → Byte → List Byte → Instr} {bs rest : List Byte} {i : Instr}
    (h : decodeBuild mk bs = .instr i rest) :
    ∃ d b1 b2 p, i = mk d b1 b2 p ∧ p.length < 65536 ∧
      bs = d.toByte :: b1 :: b2 :: lengthLo p.length :: lengthHi p.length :: (p ++ rest) := by
  unfold decodeBuild at h
  split at h
  case h_2 => cases h
  case h_1 d b1 b2 nLo nHi tail =>
    split at h
    case h_1 => cases h
    case h_2 dir hdir =>
      dsimp only at h
      split at h
      case isFalse => cases h
      case isTrue hn =>
        cases h
        have hlen : (tail.take (lengthOperand nLo nHi)).length = lengthOperand nLo nHi := by simp [hn]
        refine ⟨dir, b1, b2, _, rfl, ?_, ?_⟩
        · rw [hlen, lengthOperand]
          omega
        · rw [hlen, lengthLo_lengthOperand, lengthHi_lengthOperand, List.take_append_drop,
            direction_ofByte_some hdir]

/-- The `len` byte of a body is the length of the payload it announces. -/
theorem ofNat_length_take {len : Byte} {tail : List Byte} (h : len.toNat ≤ tail.length) :
    BitVec.ofNat 8 (tail.take len.toNat).length = len := by
  simp [h]

theorem decodeBodyA_eq_instr {mk : Byte → Byte → List Byte → Byte → Instr} {bs rest : List Byte} {i : Instr}
    (h : decodeBodyA mk bs = .instr i rest) :
    ∃ tag field p chk, i = mk tag field p chk ∧ p.length < 256 ∧
      bs = tag :: field :: BitVec.ofNat 8 p.length :: (p ++ chk :: rest) := by
  unfold decodeBodyA at h
  split at h
  case h_2 => cases h
  case h_1 tag field len tail =>
    split at h
    case isFalse => cases h
    case isTrue hn =>
      split at h
      case h_2 => cases h
      case h_1 chk after hdrop =>
        cases h
        refine ⟨tag, field, _, chk, rfl, ?_, ?_⟩
        · simp only [List.length_take]
          omega
        · rw [ofNat_length_take hn, ← hdrop, List.take_append_drop]

theorem decodeBodyB_eq_instr {mk : Byte → Byte → List Byte → Byte → Byte → Instr} {bs rest : List Byte} {i : Instr}
    (h : decodeBodyB mk bs = .instr i rest) :
    ∃ op sequence p crcLo crcHi, i = mk op sequence p crcLo crcHi ∧ p.length < 256 ∧
      bs = op :: sequence :: BitVec.ofNat 8 p.length :: (p ++ crcLo :: crcHi :: rest) := by
  unfold decodeBodyB at h
  split at h
  case h_2 => cases h
  case h_1 op sequence len tail =>
    split at h
    case isFalse => cases h
    case isTrue hn =>
      split at h
      case h_2 => cases h
      case h_1 crcLo crcHi after hdrop =>
        cases h
        refine ⟨op, sequence, _, crcLo, crcHi, rfl, ?_, ?_⟩
        · simp only [List.length_take]
          omega
        · rw [ofNat_length_take hn, ← hdrop, List.take_append_drop]

/-- What a frame body decodes to is well-formed, and its encoding is the kind's byte and what was read. -/
theorem decodeBody_eq_instr {k : FrameKind} {bs rest : List Byte} {i : Instr} (h : decodeBody k bs = .instr i rest) :
    i.wf = true ∧ k.toByte :: bs = encode i ++ rest := by
  cases k
  case aD2H | aH2D =>
    obtain ⟨tag, field, p, chk, rfl, hp, rfl⟩ := decodeBodyA_eq_instr h
    simp [Instr.wf, encode, encodeFrame, hp]
  case bD2H | bH2D =>
    obtain ⟨op, sequence, p, crcLo, crcHi, rfl, hp, rfl⟩ := decodeBodyB_eq_instr h
    simp [Instr.wf, encode, encodeFrame, hp]

/-- What the operands of a command decode to is well-formed, and its encoding is the code and what was read. -/
theorem decodeOperands_eq_instr {op : OpCode} {bs rest : List Byte} {i : Instr}
    (h : decodeOperands op bs = .instr i rest) : i.wf = true ∧ op.toByte :: bs = encode i ++ rest := by
  cases op
  case sumInit | sumRead | crcInit | crcRead | rxStartA | rxStartB | rxShort =>
    cases h
    exact ⟨rfl, rfl⟩
  case sumByte | crcByte | rxByte =>
    obtain ⟨b, rfl, rfl⟩ := decodeOneByte_eq_instr h
    exact ⟨rfl, rfl⟩
  case txBuildA | txBuildB =>
    obtain ⟨d, b1, b2, p, rfl, hp, rfl⟩ := decodeBuild_eq_instr h
    simp [Instr.wf, encode, encodeBuild, hp]

end Sys2Proof
end

section
/-! PROOFS. The statements about the encoding as a whole (30_encoding.md). -/

namespace Sys2Proof

/-- Settles O55, row by row: the first byte selects the row's decoder, and the length operand says where the payload
ends. -/
theorem decodeOfEncodeIsTheInstruction : Obligations.DecodeOfEncodeIsTheInstruction := by
  intro i rest hwf
  cases i
  case sumInit | sumRead | crcInit | crcRead | rxStartA | rxStartB | rxShort => exact decode_opCode _ rest
  case sumByte | crcByte | rxByte => exact decode_opCode _ _
  case txBuildA | txBuildB =>
    simp only [Instr.wf, decide_eq_true_eq] at hwf
    exact (decode_opCode _ _).trans (decodeBuild_encoded _ _ _ _ hwf rest)
  case frameAD2H | frameAH2D =>
    simp only [Instr.wf, decide_eq_true_eq] at hwf
    simp only [encode, encodeFrame, List.cons_append, List.append_assoc, decode_frameKind]
    exact decodeBodyA_encoded _ _ _ _ hwf rest
  case frameBD2H | frameBH2D =>
    simp only [Instr.wf, decide_eq_true_eq] at hwf
    simp only [encode, encodeFrame, List.cons_append, List.append_assoc, decode_frameKind]
    exact decodeBodyB_encoded _ _ _ _ _ hwf rest

/-- Settles O56: the first byte is a frame kind or a command code, and what its row's decoder answers is what that row
encodes to. -/
theorem encodeOfDecodeIsTheBytes : Obligations.EncodeOfDecodeIsTheBytes := by
  intro bs rest i h
  cases bs with
  | nil => cases h
  | cons c bs =>
    unfold decode at h
    dsimp only at h
    split at h
    case h_1 k hk =>
      obtain rfl := frameKind_ofByte_some hk
      exact decodeBody_eq_instr h
    case h_2 =>
      simp only [decodeCommand] at h
      split at h
      case h_1 => cases h
      case h_2 op hop =>
        obtain rfl := opCode_ofByte_some hop
        exact decodeOperands_eq_instr h

end Sys2Proof
end

section
/-! SUPPORT. A flipped bit of a byte, and of a byte sequence (R116, R133, R213). -/

namespace Sys2Proof.Machine

theorem xor_bit_ne (b : Byte) {k : Nat} (h : k < 8) : b ^^^ (1#8 <<< k) ≠ b := by
  intro heq
  have hbit := congrArg (BitVec.getLsbD · k) heq
  simp [h] at hbit

/-- A byte and a single bit it does not hold have no bit in common. -/
theorem and_bit_of_clear {b : Byte} {k : Nat} (h : b.getLsbD k = false) : b &&& (1#8 <<< k) = 0#8 := by
  apply BitVec.eq_of_getLsbD_eq
  intro j hj
  by_cases hjk : j = k
  · simp [hjk, h]
  · have : j < k ∨ j - k ≠ 0 := by omega
    rcases this with this | this <;> simp [this]

/-- Flipping a bit that is 0 adds it. -/
theorem xor_bit_of_clear {b : Byte} {k : Nat} (h : b.getLsbD k = false) : b ^^^ (1#8 <<< k) = b + (1#8 <<< k) := by
  rw [BitVec.add_eq_or_of_and_eq_zero _ _ (and_bit_of_clear h)]
  apply BitVec.eq_of_getLsbD_eq
  intro j hj
  have hand := congrArg (BitVec.getLsbD · j) (and_bit_of_clear h)
  revert hand
  simp only [BitVec.getLsbD_and, BitVec.getLsbD_xor, BitVec.getLsbD_or, BitVec.getLsbD_zero]
  cases b.getLsbD j <;> cases (1#8 <<< k).getLsbD j <;> simp

/-- Flipping a bit that is 1 takes it away. -/
theorem xor_bit_of_set {b : Byte} {k : Nat} (hk : k < 8) (h : b.getLsbD k = true) :
    (b ^^^ (1#8 <<< k)) + (1#8 <<< k) = b := by
  have hclear : (b ^^^ (1#8 <<< k)).getLsbD k = false := by simp [hk, h]
  rw [← xor_bit_of_clear hclear, BitVec.xor_assoc, BitVec.xor_self, BitVec.xor_zero]

@[simp] theorem flipBit_cons_zero (b : Byte) (q : List Byte) (k : Nat) :
    flipBit (b :: q) 0 k = (b ^^^ (1#8 <<< k)) :: q := rfl

@[simp] theorem flipBit_cons_succ (b : Byte) (q : List Byte) (i k : Nat) :
    flipBit (b :: q) (i + 1) k = b :: flipBit q i k := rfl

@[simp] theorem length_flipBit (q : List Byte) (i k : Nat) : (flipBit q i k).length = q.length :=
  List.length_modify _ _ _

theorem getD_flipBit_ne (q : List Byte) {i j : Nat} (k : Nat) (h : i ≠ j) :
    (flipBit q i k).getD j 0 = q.getD j 0 := by
  simp [flipBit, List.getD_eq_getElem?_getD, h]

theorem flipBit_append_left {p : List Byte} (q : List Byte) {i : Nat} (k : Nat) (h : i < p.length) :
    flipBit (p ++ q) i k = flipBit p i k ++ q := by
  induction p generalizing i with
  | nil => simp at h
  | cons b p ih =>
    cases i with
    | zero => rfl
    | succ i => simp [ih (Nat.lt_of_succ_lt_succ h)]

theorem flipBit_append_right (p q : List Byte) (i k : Nat) :
    flipBit (p ++ q) (p.length + i) k = p ++ flipBit q i k := by
  induction p with
  | nil => simp
  | cons b p ih => simp [Nat.succ_add, ih]

end Sys2Proof.Machine
end

section
/-! SUPPORT. The sum of a sequence, however it is reduced and whatever the order, and what a flipped bit does to it
(R110, R111, R116). -/

namespace Sys2Proof.Machine

theorem sumBytes_eq_ofNat_mod (q : List Byte) :
    sumBytes q = BitVec.ofNat 8 ((q.map BitVec.toNat).sum % 256) := by
  apply BitVec.eq_of_toNat_eq
  simp [sumBytes]

theorem sumBytes_perm {p q : List Byte} (h : p.Perm q) : sumBytes p = sumBytes q := by
  simp only [sumBytes, (h.map BitVec.toNat).sum_eq]

/-- Adding byte by byte in eight bits is adding the sum. -/
theorem foldl_add_eq_sumBytes (c : Byte) (p : List Byte) : p.foldl (· + ·) c = c + sumBytes p := by
  induction p generalizing c with
  | nil => simp
  | cons b p ih => simp [ih, BitVec.add_assoc]

theorem sum8_eq_add (t : Byte) (p : List Byte) : sum8 t p = t + lenByte p + sumBytes p := by
  rw [sum8_eq_sumBytes, sumBytes_cons, sumBytes_cons, BitVec.add_assoc]

/-- No byte exceeds 255, so neither do they on average. -/
theorem sum_toNat_le (p : List Byte) : (p.map BitVec.toNat).sum ≤ 255 * p.length := by
  induction p with
  | nil => simp
  | cons b p ih =>
    simp only [List.map_cons, List.sum_cons, List.length_cons]
    omega

theorem sumBytes_flipBit_ne {q : List Byte} {i k : Nat} (hi : i < q.length) (hk : k < 8) :
    sumBytes (flipBit q i k) ≠ sumBytes q := by
  induction q generalizing i with
  | nil => simp at hi
  | cons b q ih =>
    cases i with
    | zero => simpa using xor_bit_ne b hk
    | succ i => simpa using ih (Nat.lt_of_succ_lt_succ hi)

/-- Flipping a bit that is 0 adds it to the sum. -/
theorem sumBytes_flipBit_of_clear {q : List Byte} {i k : Nat} (hi : i < q.length)
    (h : (q.getD i 0).getLsbD k = false) : sumBytes (flipBit q i k) = sumBytes q + (1#8 <<< k) := by
  induction q generalizing i with
  | nil => simp at hi
  | cons b q ih =>
    cases i with
    | zero =>
      rw [flipBit_cons_zero, sumBytes_cons, sumBytes_cons, xor_bit_of_clear (by simpa using h)]
      exact add_right_comm _ _ _
    | succ i =>
      rw [flipBit_cons_succ, sumBytes_cons, sumBytes_cons, ih (Nat.lt_of_succ_lt_succ hi) (by simpa using h),
        BitVec.add_assoc]

/-- Flipping a bit that is 1 takes it from the sum. -/
theorem sumBytes_flipBit_of_set {q : List Byte} {i k : Nat} (hi : i < q.length) (hk : k < 8)
    (h : (q.getD i 0).getLsbD k = true) : sumBytes (flipBit q i k) + (1#8 <<< k) = sumBytes q := by
  induction q generalizing i with
  | nil => simp at hi
  | cons b q ih =>
    cases i with
    | zero =>
      rw [flipBit_cons_zero, sumBytes_cons, sumBytes_cons, add_right_comm, xor_bit_of_set hk (by simpa using h)]
    | succ i =>
      rw [flipBit_cons_succ, sumBytes_cons, sumBytes_cons, BitVec.add_assoc,
        ih (Nat.lt_of_succ_lt_succ hi) (by simpa using h)]

/-- A flipped bit of a payload byte leaves the length byte alone. -/
@[simp] theorem lenByte_flipBit (p : List Byte) (i k : Nat) : lenByte (flipBit p i k) = lenByte p := by
  simp [lenByte]

theorem sum8_flipTag_ne (t : Byte) (p : List Byte) {k : Nat} (hk : k < 8) :
    sum8 (t ^^^ (1#8 <<< k)) p ≠ sum8 t p := by
  simpa [sum8_eq_add] using xor_bit_ne t hk

theorem sum8_flipPayload_ne (t : Byte) {p : List Byte} {i k : Nat} (hi : i < p.length) (hk : k < 8) :
    sum8 t (flipBit p i k) ≠ sum8 t p := by
  simpa [sum8_eq_add] using sumBytes_flipBit_ne hi hk

end Sys2Proof.Machine
end

section
/-! PROOFS. The statements about the sum and its unit (40_sum_checksum.md). -/

namespace Sys2Proof.Machine

/-- Settles O4: eight-bit addition is addition mod 256; the corner cases are its instances. -/
theorem sumByteAddsModulo256 : Obligations.SumByteAddsModulo256 := by
  intro s b rest
  refine ⟨decodeCommand_toByte .sumByte (b :: rest), ?adds, ?zero, ?wraps, ?ones, ?worked⟩
  case adds =>
    have hsum : s.sum + b = BitVec.ofNat 8 ((s.sum.toNat + b.toNat) % 256) := by
      apply BitVec.eq_of_toNat_eq
      simp
    rw [exec_sumByte, hsum]
  case zero | wraps | ones | worked => simp [exec_sumByte]

/-- SUM.BYTE of each byte of a sequence adds the sequence's sum. -/
theorem execAll_sumBytes_append (q : List Byte) (is : List Instr) (s : State) :
    ∃ r, execAll (q.map .sumByte ++ is) s = execAll is { s with sum := s.sum + sumBytes q, ret := r } := by
  induction q generalizing s with
  | nil => exact ⟨s.ret, by simp⟩
  | cons b q ih =>
    obtain ⟨r, hr⟩ := ih { s with sum := s.sum + b, ret := [] }
    exact ⟨r, by simp [hr, BitVec.add_assoc]⟩

/-- Settles O6: SUM.INIT clears SUM and each SUM.BYTE adds its byte, whatever is returned meanwhile. -/
theorem sumFrameReturnsSum8 : Obligations.SumFrameReturnsSum8 := by
  intro s t p q
  refine ⟨?stream, fun _ => ?frame⟩
  case stream =>
    obtain ⟨r, hr⟩ := execAll_sumBytes_append q [] { s with sum := 0x00#8, ret := [] }
    refine ⟨r, ?_⟩
    rw [execAll_sumInit_cons, ← sumBytes_eq_ofNat_mod]
    simpa using hr
  case frame =>
    obtain ⟨r, hr⟩ := execAll_sumBytes_append p [.sumRead] { s with sum := t + lenByte p, ret := [] }
    simp [sumFrame, hr, sum8_eq_add]

/-- Settles O7: reduction mod 256 is a ring homomorphism, and 255 + 255 + 255 · 255 = 65535. -/
theorem sumReducedStepwiseInAnyOrder : Obligations.SumReducedStepwiseInAnyOrder := by
  intro t p q hp
  refine ⟨?reduced, ?bound, ?stepwise, ?order⟩
  case reduced => simp [sum8]
  case bound =>
    have hsum := sum_toNat_le p
    omega
  case stepwise => rw [foldl_add_eq_sumBytes, sum8_eq_add, lenByte]
  case order =>
    intro hperm
    rw [sum8_eq_add, sum8_eq_add, sumBytes_perm hperm, lenByte, lenByte, hperm.length_eq]

/-- Settles O8: one flip changes one summand; of two opposite flips one adds the bit and the other takes it away. -/
theorem sumDetectsOneFlippedBit : Obligations.SumDetectsOneFlippedBit := by
  intro t p k hk
  refine ⟨sum8_flipTag_ne t p hk, fun i hi => sum8_flipPayload_ne t hi hk, ?opposite⟩
  intro i j hi hj hset hclear
  have hij : i ≠ j := by
    rintro rfl
    rw [hset] at hclear
    cases hclear
  have hclear' : ((flipBit p i k).getD j 0).getLsbD k = false := by rwa [getD_flipBit_ne p k hij]
  have hsum : sumBytes (flipBit (flipBit p i k) j k) = sumBytes p := by
    rw [sumBytes_flipBit_of_clear (by simpa using hj) hclear', sumBytes_flipBit_of_set hi hk hset]
  simp [sum8_eq_add, hsum]

end Sys2Proof.Machine
end

section
/-! SUPPORT. The CRC update as a map of the accumulator: linear over exclusive-or and injective (R127). -/

namespace Sys2Proof.Machine

/-- The loop of R125 without its branch: the polynomial enters where bit 0 was 1. -/
theorem crcShift_eq (c : Half) : crcShift c = (c >>> 1) ^^^ (if c.getLsbD 0 then crcPoly else 0#16) := by
  unfold crcShift
  split <;> simp

theorem crcShift_of_even {c : Half} (h : c.getLsbD 0 = false) : crcShift c = c >>> 1 := by
  rw [crcShift, h]
  rfl

theorem crcShift_xor (c d : Half) : crcShift (c ^^^ d) = crcShift c ^^^ crcShift d := by
  have hpoly : (if (c ^^^ d).getLsbD 0 then crcPoly else 0#16) =
      (if c.getLsbD 0 then crcPoly else 0#16) ^^^ (if d.getLsbD 0 then crcPoly else 0#16) := by
    rw [BitVec.getLsbD_xor]
    cases c.getLsbD 0 <;> cases d.getLsbD 0 <;> simp
  rw [crcShift_eq, crcShift_eq, crcShift_eq, hpoly, BitVec.ushiftRight_xor_distrib]
  ac_rfl

theorem crcShifts_xor (n : Nat) (c d : Half) : crcShifts n (c ^^^ d) = crcShifts n c ^^^ crcShifts n d := by
  induction n generalizing c d with
  | zero => rfl
  | succ n ih => simp only [crcShifts, crcShift_xor, ih]

/-- Bit 15 after a shift is bit 0 before it, since the polynomial holds it and the shift clears it. -/
theorem getLsbD_crcShift_15 (c : Half) : (crcShift c).getLsbD 15 = c.getLsbD 0 := by
  rw [crcShift_eq]
  cases c.getLsbD 0 <;> simp [crcPoly, BitVec.getLsbD_of_ge]

/-- A shift loses nothing: only 0 is taken to 0. -/
theorem eq_zero_of_crcShift_eq_zero {c : Half} (h : crcShift c = 0#16) : c = 0#16 := by
  have h0 : c.getLsbD 0 = false := by rw [← getLsbD_crcShift_15, h]; rfl
  have hshift : c >>> 1 = 0#16 := by rwa [crcShift_of_even h0] at h
  apply BitVec.eq_of_getLsbD_eq
  intro i hi
  cases i with
  | zero => simpa using h0
  | succ i => simpa [Nat.add_comm] using congrArg (BitVec.getLsbD · i) hshift

theorem eq_zero_of_crcShifts_eq_zero {n : Nat} {c : Half} (h : crcShifts n c = 0#16) : c = 0#16 := by
  induction n generalizing c with
  | zero => exact h
  | succ n ih => exact eq_zero_of_crcShift_eq_zero (ih h)

/-- A linear map with nothing but 0 above 0 is injective. -/
theorem crcShifts_injective (n : Nat) : Function.Injective (crcShifts n) := by
  intro c d h
  have hzero : crcShifts n (c ^^^ d) = 0#16 := by rw [crcShifts_xor, h, BitVec.xor_self]
  exact BitVec.xor_eq_zero_iff.mp (eq_zero_of_crcShifts_eq_zero hzero)

theorem setWidth16_injective : Function.Injective (fun b : Byte => b.setWidth 16) := by
  intro a b h
  have hnat := congrArg BitVec.toNat h
  apply BitVec.eq_of_toNat_eq
  simp only [BitVec.toNat_setWidth] at hnat
  omega

/-- For a fixed byte the update is injective in the accumulator. -/
theorem crcUpdate_injective (b : Byte) : Function.Injective (crcUpdate · b) := by
  intro c d h
  exact (BitVec.xor_left_inj _).mp (crcShifts_injective 8 h)

/-- For a fixed accumulator it is injective in the byte. -/
theorem crcUpdate_byte_injective (c : Half) : Function.Injective (crcUpdate c) := by
  intro a b h
  exact setWidth16_injective ((BitVec.xor_right_inj _).mp (crcShifts_injective 8 h))

theorem crcUpdate_xor (c d : Half) (a b : Byte) :
    crcUpdate (c ^^^ d) (a ^^^ b) = crcUpdate c a ^^^ crcUpdate d b := by
  have hin : c ^^^ d ^^^ (a ^^^ b).setWidth 16 = (c ^^^ a.setWidth 16) ^^^ (d ^^^ b.setWidth 16) := by
    rw [BitVec.setWidth_xor]
    ac_rfl
  rw [crcUpdate, hin, crcShifts_xor, crcUpdate, crcUpdate]

theorem crcFrom_injective (q : List Byte) : Function.Injective (crcFrom · q) := by
  intro c d h
  induction q generalizing c d with
  | nil => exact h
  | cons b q ih => exact crcUpdate_injective b (ih h)

theorem crcFrom_flipBit_ne {q : List Byte} {i k : Nat} (c : Half) (hi : i < q.length) (hk : k < 8) :
    crcFrom c (flipBit q i k) ≠ crcFrom c q := by
  induction q generalizing i c with
  | nil => simp at hi
  | cons b q ih =>
    cases i with
    | zero =>
      intro heq
      exact xor_bit_ne b hk (crcUpdate_byte_injective c (crcFrom_injective q heq))
    | succ i => exact ih _ (Nat.lt_of_succ_lt_succ hi)

/-- While the low bits are 0 the polynomial never enters: the loop only shifts. -/
theorem crcShifts_of_low_zero {n : Nat} {c : Half} (h : ∀ i, i < n → c.getLsbD i = false) :
    crcShifts n c = c >>> n := by
  induction n generalizing c with
  | zero => simp [crcShifts]
  | succ n ih =>
    have hshift : crcShift c = c >>> 1 := crcShift_of_even (h 0 (Nat.succ_pos n))
    have hlow : ∀ i, i < n → (c >>> 1).getLsbD i = false := by
      intro i hi
      simpa using h (1 + i) (by omega)
    rw [crcShifts, hshift, ih hlow, ← BitVec.shiftRight_add, Nat.add_comm]

/-- The low byte of an accumulator, taken as the next byte, leaves the high byte in the low half. -/
theorem crcUpdate_lo (c : Half) : crcUpdate c (lo c) = (hi c).setWidth 16 := by
  have hlow : ∀ i, i < 8 → (c ^^^ (lo c).setWidth 16).getLsbD i = false := by
    intro i hlt
    simp [lo, hlt, show i < 16 by omega]
  rw [crcUpdate, crcShifts_of_low_zero hlow]
  apply BitVec.eq_of_getLsbD_eq
  intro i hlt
  by_cases h8 : i < 8
  · simp [lo, hi, h8, hlt]
  · simp [lo, hi, h8, BitVec.getLsbD_of_ge c (8 + i) (by omega)]

/-- A byte equal to an accumulator without a high half cancels it. -/
theorem crcUpdate_setWidth (b : Byte) : crcUpdate (b.setWidth 16) b = 0x0000#16 := by
  rw [crcUpdate, BitVec.xor_self]
  rfl

end Sys2Proof.Machine
end

section
/-! PROOFS. The statements about the CRC and its unit (41_crc16.md). -/

namespace Sys2Proof.Machine

/-- Settles O10: the loop written out is the loop of `crcShifts`, shift by shift. -/
theorem crcByteRunsTheLoop : Obligations.CrcByteRunsTheLoop := by
  intro s b rest
  refine ⟨decodeCommand_toByte .crcByte (b :: rest), rfl, ?zero, ?marker, ?ones⟩
  case zero =>
    have hupdate : crcUpdate 0xFFFF#16 0x00#8 = 0x40BF#16 := by decide
    rw [exec_crcByte, hupdate]
  case marker =>
    have hupdate : crcUpdate 0xFFFF#16 0xFA#8 = 0x033F#16 := by decide
    rw [exec_crcByte, hupdate]
  case ones =>
    have hupdate : crcUpdate 0xFFFF#16 0xFF#8 = 0x00FF#16 := by decide
    rw [exec_crcByte, hupdate]

/-- CRC.BYTE of each byte of a sequence takes the accumulator through it. -/
theorem execAll_crcBytes_append (q : List Byte) (is : List Instr) (s : State) :
    ∃ r, execAll (q.map .crcByte ++ is) s = execAll is { s with crc := crcFrom s.crc q, ret := r } := by
  induction q generalizing s with
  | nil => exact ⟨s.ret, by simp⟩
  | cons b q ih =>
    obtain ⟨r, hr⟩ := ih { s with crc := crcUpdate s.crc b, ret := [] }
    exact ⟨r, by simp [hr]⟩

/-- Settles O12: CRC.INIT loads the start value of crc16 and each CRC.BYTE is one update of it. -/
theorem crcBlockReturnsCrc16 : Obligations.CrcBlockReturnsCrc16 := by
  intro s q
  refine ⟨?stream, ?block⟩
  case stream =>
    obtain ⟨r, hr⟩ := execAll_crcBytes_append q [] { s with crc := crcInitValue, ret := [] }
    refine ⟨r, ?_⟩
    rw [execAll_crcInit_cons]
    simpa [crc16] using hr
  case block =>
    obtain ⟨r, hr⟩ := execAll_crcBytes_append q [.crcRead] { s with crc := crcInitValue, ret := [] }
    simp [crcBlock, hr, crc16]

/-- Settles O13: injective on a finite type is bijective; the update of 0 by 0 is 0, so no other value comes to 0. -/
theorem crcUpdateIsLinearAndBijective : Obligations.CrcUpdateIsLinearAndBijective := by
  refine ⟨crcUpdate_xor, fun b => Finite.injective_iff_bijective.mp (crcUpdate_injective b), ?nonzero⟩
  intro c n hc
  induction n generalizing c with
  | zero => exact hc
  | succ n ih =>
    refine ih _ fun hzero => hc ?_
    exact eq_zero_of_crcShifts_eq_zero (by simpa [crcUpdate] using hzero)

/-- Settles O14: the first CRC byte shifts the accumulator's high byte down, the second cancels it. -/
theorem crcResidueIsZero : Obligations.CrcResidueIsZero := by
  intro q
  rw [crc16_append, crcFrom_cons, crcFrom_cons, crcUpdate_lo, crcUpdate_setWidth, crcFrom_nil]

/-- Settles O15: the update is injective in the byte, and the bytes behind it are injective in the accumulator. -/
theorem crcDetectsOneFlippedBit : Obligations.CrcDetectsOneFlippedBit :=
  fun _ _ _ hi hk => crcFrom_flipBit_ne crcInitValue hi hk

/-- Settles O16, vector by vector. -/
theorem crcOfTheTestVectors : Obligations.CrcOfTheTestVectors := by
  refine ⟨rfl, ?_, ?_, ?_, ?_, ?_, ?_⟩ <;> decide +kernel

end Sys2Proof.Machine
end

section
/-! SUPPORT. The frames the assembler makes, and what a build with a payload that fits answers (R147, R148, R150). -/

namespace Sys2Proof

theorem lengthLo_eq_mod (n : Nat) : lengthLo n = BitVec.ofNat 8 (n % 256) := by
  apply BitVec.eq_of_toNat_eq
  simp [lengthLo]

namespace Machine

theorem exec_txBuildA (d : Direction) (b1 b2 : Byte) (p : List Byte) (s : State) :
    exec (.txBuildA d b1 b2 p) s = .next (build (frameA s.params.aTagPos d b1 b2 p) p s) := rfl

theorem exec_txBuildB (d : Direction) (b1 b2 : Byte) (p : List Byte) (s : State) :
    exec (.txBuildB d b1 b2 p) s = .next (build (frameB d b1 b2 p) p s) := rfl

theorem build_of_le {p : List Byte} (h : p.length ≤ 255) (frame : List Byte) (s : State) :
    build frame p s = { s with txs := s.txs ++ frame, txRes := .ok, ret := [0x01#8] } :=
  if_neg (Nat.not_lt.mpr h)

/-- What a build touches: TXS, TX_RES and the returned bytes (R45). -/
theorem build_eq (frame p : List Byte) (s : State) : build frame p s =
    { s with
      txs := s.txs ++ (if p.length > 255 then [] else frame)
      txRes := if p.length > 255 then .payloadTooLarge else .ok
      ret := if p.length > 255 then [0x08#8] else [0x01#8] } := by
  by_cases h : p.length > 255
  · simp only [build_of_gt h, h, if_true, List.append_nil]
    rfl
  · simp only [build_of_le (Nat.not_lt.mp h), h, if_false]

@[simp] theorem length_headerAndPayload (m b1 b2 : Byte) (p : List Byte) :
    (headerAndPayload m b1 b2 p).length = 4 + p.length := by
  simp [headerAndPayload]
  omega

@[simp] theorem length_frameA (pos : TagPos) (d : Direction) (b1 b2 : Byte) (p : List Byte) :
    (frameA pos d b1 b2 p).length = 5 + p.length := by
  simp [frameA]
  omega

@[simp] theorem length_frameB (d : Direction) (b1 b2 : Byte) (p : List Byte) :
    (frameB d b1 b2 p).length = 6 + p.length := by
  simp [frameB]
  omega

/-- The checksum is the last byte of a variant A frame (R80). -/
theorem getLast?_frameA (pos : TagPos) (d : Direction) (b1 b2 : Byte) (p : List Byte) :
    (frameA pos d b1 b2 p).getLast? = some (sum8 (tagOf pos b1 b2) p) := by
  simp [frameA]

/-- The bytes of TX.BUILD_A and TX.BUILD_B are those of their table row (R92, R93). -/
theorem decodeCommand_build (op : OpCode) (mk : Direction → Byte → Byte → List Byte → Instr)
    (hop : decodeOperands op = decodeBuild mk) (d : Direction) (b1 b2 : Byte) {p : List Byte} (h : p.length < 65536)
    (rest : List Byte) :
    decodeCommand (op.toByte :: d.toByte :: b1 :: b2 ::
        BitVec.ofNat 8 (p.length % 256) :: BitVec.ofNat 8 (p.length / 256) :: (p ++ rest)) =
      .instr (mk d b1 b2 p) rest := by
  rw [decodeCommand_toByte, hop, ← lengthLo_eq_mod]
  exact decodeBuild_encoded mk d b1 b2 h rest

/-- A variant A frame on the wire is the row of its kind (R80, R87). -/
theorem decodeFrame_frameA (k : FrameKind) (mk : Byte → Byte → List Byte → Byte → Instr)
    (hk : decodeBody k = decodeBodyA mk) {pos : TagPos} {d : Direction} (hd : markerA d = k.toByte) (b1 b2 : Byte)
    {p : List Byte} (h : p.length < 256) (rest : List Byte) :
    decodeFrame (frameA pos d b1 b2 p ++ rest) = .instr (mk b1 b2 p (sum8 (tagOf pos b1 b2) p)) rest := by
  simp only [frameA, headerAndPayload, hd, lenByte, List.cons_append, List.nil_append, List.append_assoc,
    decodeFrame_toByte, hk]
  exact decodeBodyA_encoded mk b1 b2 _ h rest

/-- A variant B frame on the wire is the row of its kind (R81, R87). -/
theorem decodeFrame_frameB (k : FrameKind) (mk : Byte → Byte → List Byte → Byte → Byte → Instr)
    (hk : decodeBody k = decodeBodyB mk) {d : Direction} (hd : markerB d = k.toByte) (b1 b2 : Byte) {p : List Byte}
    (h : p.length < 256) (rest : List Byte) :
    decodeFrame (frameB d b1 b2 p ++ rest) =
      .instr (mk b1 b2 p (lo (crc16 (headerAndPayload (markerB d) b1 b2 p)))
        (hi (crc16 (headerAndPayload (markerB d) b1 b2 p)))) rest := by
  simp only [frameB]
  generalize crc16 (headerAndPayload (markerB d) b1 b2 p) = c
  simp only [headerAndPayload, hd, lenByte, List.cons_append, List.nil_append, List.append_assoc,
    decodeFrame_toByte, hk]
  exact decodeBodyB_encoded mk b1 b2 _ _ h rest

end Machine
end Sys2Proof
end

section
/-! PROOFS. The statements about the frame assembler (42_frame_encode.md, 30_encoding.md). -/

namespace Sys2Proof.Machine

/-- Settles O17: the length of the payload decides; a frame's last byte depends on the byte at A_TAG_POS alone of the
two header bytes. -/
theorem txBuildAAppendsTheFrame : Obligations.TxBuildAAppendsTheFrame := by
  intro s d b1 b2 p
  refine ⟨?decodes, ?tooLarge, ?appends, ?noPayload, ?longest, ?posOne, ?posTwo, ?worked⟩
  case decodes =>
    intro rest h
    have hrow := decodeCommand_build .txBuildA .txBuildA rfl d b1 b2 h rest
    cases d <;> exact hrow
  case tooLarge =>
    intro h
    rw [exec_txBuildA, build_of_gt h]
    rfl
  case appends =>
    intro h
    rw [exec_txBuildA, build_of_le h]
    cases d <;> rfl
  case noPayload =>
    rintro rfl
    simp [sum8]
  case longest =>
    intro h
    simp [h]
  case posOne =>
    intro e c hpos
    simp [getLast?_frameA, hpos, tagOf]
  case posTwo =>
    intro e c hpos
    simp [getLast?_frameA, hpos, tagOf]
  case worked =>
    rw [exec_txBuildA, build_of_le (by decide)]
    cases s.params.aTagPos <;> rfl

/-- The direction byte is covered: the same fields have different CRCs in the two directions (R89). -/
theorem crc16_directions_ne (q : List Byte) : crc16 (0xFB#8 :: q) ≠ crc16 (0xFA#8 :: q) := by
  have hflip : flipBit (0xFA#8 :: q) 0 0 = 0xFB#8 :: q := rfl
  rw [← hflip]
  exact crcFrom_flipBit_ne _ (by simp) (by decide)

/-- Settles O18: the length of the payload decides; the trailer is the CRC of all the bytes before it. -/
theorem txBuildBAppendsTheFrame : Obligations.TxBuildBAppendsTheFrame := by
  intro s d b1 b2 p
  refine ⟨?decodes, ?tooLarge, ?appends, ?noPayload, ?longest, crc16_directions_ne _, ?worked⟩
  case decodes =>
    intro rest h
    have hrow := decodeCommand_build .txBuildB .txBuildB rfl d b1 b2 h rest
    cases d <;> exact hrow
  case tooLarge =>
    intro h
    rw [exec_txBuildB, build_of_gt h]
    rfl
  case appends =>
    intro h
    refine ⟨_, rfl, ?_⟩
    rw [exec_txBuildB, build_of_le h, frameB, lo_eq_ofNat_mod, hi_eq_ofNat_div]
    cases d <;> rfl
  case noPayload =>
    rintro rfl
    simp
  case longest =>
    intro h
    simp [h]
  case worked =>
    have hframe : frameB .d2h 0x20#8 0x01#8 [0x01#8] =
        [0xFA#8, 0x20#8, 0x01#8, 0x01#8, 0x01#8, 0x66#8, 0x44#8] := by decide +kernel
    rw [exec_txBuildB, build_of_le (by decide), hframe]

/-- Settles O20, kind by kind: marker, fields, length byte and trailer stand where the wire format has them. -/
theorem builtFramesDecodeAsFrames : Obligations.BuiltFramesDecodeAsFrames := by
  intro pos b1 b2 p rest hp
  have h : p.length < 256 := Nat.lt_succ_of_le hp
  exact ⟨decodeFrame_frameA .aD2H .frameAD2H rfl rfl b1 b2 h rest,
    decodeFrame_frameA .aH2D .frameAH2D rfl rfl b1 b2 h rest,
    ⟨_, rfl, decodeFrame_frameB .bD2H .frameBD2H rfl rfl b1 b2 h rest⟩,
    ⟨_, rfl, decodeFrame_frameB .bH2D .frameBH2D rfl rfl b1 b2 h rest⟩,
    length_frameA .., length_frameA .., length_frameB .., length_frameB ..⟩

end Sys2Proof.Machine
end

section
/-! PROOFS. The statements about fixed tables: reset values, status codes, words of the encoding and what it refuses
(10_state.md, 30_encoding.md, 70_reset_and_hazards.md). -/

namespace Sys2Proof.Machine

/-- Settles O1, field by field. -/
theorem resetValuesOfTheRegisters : Obligations.ResetValuesOfTheRegisters :=
  ⟨rfl, rfl, rfl, rfl, rfl, rfl, rfl, rfl, rfl, rfl, rfl, rfl, rfl, rfl, fun _ => rfl, rfl⟩

/-- A reset among the inputs is the next step. -/
theorem step_of_reset {s : State} {rest : List Input} (h : s.inputs = .reset :: rest) :
    step s = .next (hardReset { s with inputs := rest }) := by
  simp [step, fetch, h]

/-- Settles O2: the step is `hardReset`, with the reset taken from the inputs. -/
theorem hardwareResetKeepsTheStreams : Obligations.HardwareResetKeepsTheStreams :=
  fun _ _ h => step_of_reset h

/-- Settles O52, code by code. -/
theorem statusCodes : Obligations.StatusCodes := by
  refine ⟨?variant, ?stage, ?rxResult, ?txResult, rfl, rfl⟩
  case variant => rintro (_ | _) <;> rfl
  case stage => rintro (_ | _ | _ | _ | _ | _) <;> rfl
  case rxResult => rintro (_ | _ | _ | _ | _ | _) <;> rfl
  case txResult => rintro (_ | _ | _) <;> rfl

theorem decodeCommand_of_reserved {c : Byte} (h : OpCode.ofByte c = none) (rest : List Byte) :
    decodeCommand (c :: rest) = .rejected (.reservedCode c) := by
  simp only [decodeCommand, h]

theorem decodeBuild_of_reserved {d : Byte} (h : Direction.ofByte d = none)
    (mk : Direction → Byte → Byte → List Byte → Instr) (b1 b2 nLo nHi : Byte) (rest : List Byte) :
    decodeBuild mk (d :: b1 :: b2 :: nLo :: nHi :: rest) = .rejected (.reservedDirection d) := by
  simp only [decodeBuild, h]

/-- Rejected command bytes are no step. -/
theorem step_of_rejected {s : State} {bs : List Byte} {rest : List Input} {r : Reject}
    (h : s.inputs = .command bs :: rest) (hr : decodeCommand bs = .rejected r) : step s = .refused (.undecoded r) := by
  simp [step, fetch, h, fetchCommand, hr]

/-- Settles O57: a code outside the table of R92 is found in no row of it, nor a direction operand outside R93. -/
theorem reservedEncodingsAreRefused : Obligations.ReservedEncodingsAreRefused := by
  refine ⟨?codes, ?directions, fun _ _ _ _ => step_of_rejected⟩
  case codes =>
    intro c rest hc
    refine decodeCommand_of_reserved (List.find?_eq_none.mpr fun op _ hop => hc ?_) rest
    obtain rfl := of_decide_eq_true hop
    cases op <;> decide
  case directions =>
    intro c d b1 b2 nLo nHi rest hc h0 h1
    have hd : Direction.ofByte d = none := by
      refine List.find?_eq_none.mpr fun x _ hx => ?_
      obtain rfl := of_decide_eq_true hx
      cases x
      case h2d => exact h0 rfl
      case d2h => exact h1 rfl
    rcases hc with rfl | rfl
    · exact (decodeCommand_toByte .txBuildA _).trans (decodeBuild_of_reserved hd _ b1 b2 nLo nHi rest)
    · exact (decodeCommand_toByte .txBuildB _).trans (decodeBuild_of_reserved hd _ b1 b2 nLo nHi rest)

/-- Settles O58, word by word. -/
theorem wordsOfEachFamilyDecode : Obligations.WordsOfEachFamilyDecode := by
  refine ⟨?_, ?_, ?_, ?_, ?_, ?_, ?_, ?_, ?_⟩ <;> decide

end Sys2Proof.Machine
end

section
/-! SUPPORT. RX.BYTE and RX.SHORT as operations, and what a byte does in each stage (R161 to R170). -/

namespace Sys2Proof.Machine

theorem exec_rxByte (b : Byte) (s : State) : exec (.rxByte b) s = deliver (.byte b) s := rfl

theorem exec_rxShort (s : State) : exec .rxShort s = deliver .short s := rfl

theorem deliver_of_inactive (e : RxEvent) {s : State} (h : s.rxSt.isActive = false) :
    deliver e s = .refused .noReadPending := by
  simp [deliver, h]

theorem deliver_of_offered {e : RxEvent} {s : State} (h : s.rxSt.isActive = true) (ho : Offered e s) :
    deliver e s = .next (reply [] (takeEvent e (consume s))) :=
  deliver_eq_next.mpr ⟨h, offers_iff.mpr ho, rfl⟩

theorem deliver_of_not_offered {e : RxEvent} {s : State} (h : s.rxSt.isActive = true) (ho : ¬ Offered e s) :
    deliver e s = .refused .notNextEvent := by
  have hoffers : offers e s = false := Bool.eq_false_iff.mpr fun hof => ho (offers_iff.mp hof)
  simp [deliver, h, hoffers]

@[simp] theorem takeEvent_byte (b : Byte) (s : State) : takeEvent (.byte b) s = takeByte b s := rfl

variable {s : State} (b : Byte)

theorem takeByte_of_inactive (h : s.rxSt.isActive = false) : takeByte b s = s := by
  rcases RxStage.isActive_eq_false_iff.mp h with h | h <;> simp [takeByte, h]

theorem takeByte_awaitMarker (h : s.rxSt = .awaitMarker) : takeByte b s = takeMarker b s := by
  simp [takeByte, h]

/-- The parser of a variant takes its marker (R163). -/
theorem takeByte_marker {v : Variant} {b : Byte} (h : s.rxSt = .awaitMarker) (hv : s.rxVar = v)
    (hb : b = acceptedMarker v) : takeByte b s =
      { s with
        rxDir := b, rxSt := .header, rxCnt := 0#8
        rxCrc := if v = .b then crcUpdate s.rxCrc b else s.rxCrc } := by
  rw [takeByte_awaitMarker b h]
  subst hv hb
  cases hv : s.rxVar <;> simp [takeMarker, hv]

/-- A variant A scan discards any other byte (R163). -/
theorem takeByte_noise {b : Byte} (h : s.rxSt = .awaitMarker) (hv : s.rxVar = .a) (hb : b ≠ acceptedMarker .a) :
    takeByte b s = s := by
  rw [takeByte_awaitMarker b h]
  simp [takeMarker, hv, hb]

/-- Variant B ends the parse at any other byte (R163). -/
theorem takeByte_wrongDirection {b : Byte} (h : s.rxSt = .awaitMarker) (hv : s.rxVar = .b)
    (hb : b ≠ acceptedMarker .b) : takeByte b s = raiseRx .wrongDirection { s with rxDir := b } := by
  rw [takeByte_awaitMarker b h]
  simp [takeMarker, hv, hb]

theorem takeByte_header (h : s.rxSt = .header) : takeByte b s = takeHeader b s := by
  simp [takeByte, h]

theorem takeByte_payload (h : s.rxSt = .payload) : takeByte b s = takePayload b s := by
  simp [takeByte, h]

theorem takeByte_trailerA (h : s.rxSt = .trailer) (hv : s.rxVar = .a) : takeByte b s = takeTrailerA b s := by
  simp [takeByte, h, hv]

theorem takeByte_trailerB (h : s.rxSt = .trailer) (hv : s.rxVar = .b) : takeByte b s = takeTrailerB b s := by
  simp [takeByte, h, hv]

/-- The accumulators after a covered byte, both variants at once. -/
theorem accumulate_eq (s : State) : accumulate b s =
    { s with
      rxCrc := if s.rxVar = .b then crcUpdate s.rxCrc b else s.rxCrc
      rxSum := if s.rxVar = .a then s.rxSum + b else s.rxSum } := by
  unfold accumulate
  cases hv : s.rxVar <;> simp

/-- The count selects the latch, whether the byte is covered, and the stage (R164). -/
theorem takeHeader_eq (s : State) : takeHeader b s =
    { s with
      rxB1 := if s.rxCnt = 0#8 then b else s.rxB1
      rxB2 := if s.rxCnt = 1#8 then b else s.rxB2
      rxLen := if s.rxCnt = 2#8 then b else s.rxLen
      rxCrc := if s.rxVar = .b then crcUpdate s.rxCrc b else s.rxCrc
      rxSum :=
        if s.rxVar = .a ∧ (s.rxCnt = tagCount s.params.aTagPos ∨ s.rxCnt = 2#8) then s.rxSum + b else s.rxSum
      rxCnt := if s.rxCnt.toNat < 2 then s.rxCnt + 1#8 else 0#8
      rxSt := if s.rxCnt.toNat < 2 then s.rxSt else if b = 0x00#8 then .trailer else .payload } := by
  have hlatch : latchHeader b s =
      { s with
        rxB1 := if s.rxCnt = 0#8 then b else s.rxB1
        rxB2 := if s.rxCnt = 1#8 then b else s.rxB2
        rxLen := if s.rxCnt = 2#8 then b else s.rxLen } := by
    unfold latchHeader
    repeat' split
    all_goals simp_all
  unfold takeHeader
  rw [hlatch, headerCovered]
  cases hv : s.rxVar
  case a =>
    by_cases hc : s.rxCnt = tagCount s.params.aTagPos ∨ s.rxCnt = 2#8 <;>
      by_cases hn : s.rxCnt.toNat < 2 <;> simp [hc, hn, accumulate]
  case b => by_cases hn : s.rxCnt.toNat < 2 <;> simp [hn, accumulate]

theorem takePayload_eq (s : State) : takePayload b s =
    { s with
      rxPbuf := Memory.write s.rxPbuf s.rxCnt.toNat b
      rxCrc := if s.rxVar = .b then crcUpdate s.rxCrc b else s.rxCrc
      rxSum := if s.rxVar = .a then s.rxSum + b else s.rxSum
      rxCnt := if s.rxCnt.toNat + 1 = s.rxLen.toNat then 0#8 else s.rxCnt + 1#8
      rxSt := if s.rxCnt.toNat + 1 = s.rxLen.toNat then .trailer else s.rxSt } := by
  unfold takePayload
  rw [accumulate_eq]
  dsimp only
  split <;> rfl

theorem takeTrailerA_eq (s : State) (hv : s.rxVar = .a) : takeTrailerA b s =
    { s with
      rxChk := b.setWidth 16
      rxSt := .done
      rxRes :=
        if b ≠ s.rxSum then .checksumMismatch
        else if knownA s.params (tagOf s.params.aTagPos s.rxB1 s.rxB2) = true then .ok else .unknownTag } := by
  unfold takeTrailerA
  by_cases h : b = s.rxSum <;> simp [h, resolve, raiseRx, tagIsKnown, hv]

theorem takeTrailerB_low (s : State) (h : s.rxCnt = 0#8) :
    takeTrailerB b s = { s with rxChk := joinHalf (hi s.rxChk) b, rxCnt := 1#8 } := by
  simp [takeTrailerB, h]

theorem takeTrailerB_high (s : State) (hv : s.rxVar = .b) (h : s.rxCnt ≠ 0#8) : takeTrailerB b s =
    { s with
      rxChk := joinHalf b (lo s.rxChk)
      rxSt := .done
      rxRes :=
        if joinHalf b (lo s.rxChk) ≠ s.rxCrc then .checksumMismatch
        else if knownB s.params s.rxB1 = true then .ok else .unknownTag } := by
  unfold takeTrailerB
  by_cases hc : joinHalf b (lo s.rxChk) = s.rxCrc <;> simp [h, hc, resolve, raiseRx, tagIsKnown, hv]

end Sys2Proof.Machine
end

section
/-! SUPPORT. What a byte taken by the parser does not depend on (R45): the registers of the other units, the streams,
and what the payload buffer holds. -/

namespace Sys2Proof.Machine

/-- The parser's registers of one state with everything else of another, the payload buffer and the streams included;
the constants of the run are the first one's. -/
def withRest (u s : State) : State :=
  { s with
    sum := u.sum, crc := u.crc, rxPbuf := u.rxPbuf, txRes := u.txRes, rxs := u.rxs, txs := u.txs, inputs := u.inputs,
    ret := u.ret }

/-- The parser of one state, its payload buffer included, among everything else of another. -/
def inContext (u s : State) : State := withRest { u with rxPbuf := s.rxPbuf } s

/-- The payload buffer after a byte: a payload byte is written where RX_CNT says (R166), no other byte anywhere. -/
def pbufAfter (b : Byte) (s : State) (m : Memory) : Memory :=
  if s.rxSt = .payload then Memory.write m s.rxCnt.toNat b else m

variable {s : State} (b : Byte)

theorem pbufAfter_payload (h : s.rxSt = .payload) (m : Memory) :
    pbufAfter b s m = Memory.write m s.rxCnt.toNat b := if_pos h

theorem pbufAfter_of_ne (h : s.rxSt ≠ .payload) (m : Memory) : pbufAfter b s m = m := if_neg h

theorem takeMarker_withRest (u s : State) : takeMarker b (withRest u s) = withRest u (takeMarker b s) := by
  unfold takeMarker
  cases hv : s.rxVar
  case a => by_cases hb : b = acceptedMarker .a <;> simp [withRest, hv, hb]
  case b => by_cases hb : b = acceptedMarker .b <;> simp [withRest, hv, hb, raiseRx]

theorem takeTrailerB_withRest (u : State) (hv : s.rxVar = .b) :
    takeTrailerB b (withRest u s) = withRest u (takeTrailerB b s) := by
  by_cases hc : s.rxCnt = 0#8
  · rw [takeTrailerB_low b s hc, takeTrailerB_low b (withRest u s) hc]
    rfl
  · rw [takeTrailerB_high b s hv hc, takeTrailerB_high b (withRest u s) hv hc]
    rfl

theorem takeByte_withRest (u s : State) :
    takeByte b (withRest u s) = withRest { u with rxPbuf := pbufAfter b s u.rxPbuf } (takeByte b s) := by
  cases hst : s.rxSt
  case payload =>
    rw [takeByte_payload (s := s) b hst, takeByte_payload (s := withRest u s) b hst, takePayload_eq, takePayload_eq,
      pbufAfter_payload b hst]
    rfl
  all_goals rw [pbufAfter_of_ne b (by simp [hst])]
  case idle | done =>
    have hinactive : s.rxSt.isActive = false := by rw [hst]; rfl
    rw [takeByte_of_inactive (s := s) b hinactive, takeByte_of_inactive (s := withRest u s) b hinactive]
  case awaitMarker =>
    rw [takeByte_awaitMarker (s := s) b hst, takeByte_awaitMarker (s := withRest u s) b hst, takeMarker_withRest]
  case header =>
    rw [takeByte_header (s := s) b hst, takeByte_header (s := withRest u s) b hst, takeHeader_eq, takeHeader_eq]
    rfl
  case trailer =>
    cases hv : s.rxVar
    case a =>
      rw [takeByte_trailerA (s := s) b hst hv, takeByte_trailerA (s := withRest u s) b hst hv,
        takeTrailerA_eq b s hv, takeTrailerA_eq b (withRest u s) hv]
      rfl
    case b =>
      rw [takeByte_trailerB (s := s) b hst hv, takeByte_trailerB (s := withRest u s) b hst hv,
        takeTrailerB_withRest b u hv]

/-- A byte leaves everything outside the parser alone, and of the payload buffer what `pbufAfter` leaves. -/
theorem takeByte_eq_withRest (s : State) :
    takeByte b s = withRest { s with rxPbuf := pbufAfter b s s.rxPbuf } (takeByte b s) :=
  takeByte_withRest b s s

@[simp] theorem takeByte_rxPbuf (s : State) : (takeByte b s).rxPbuf = pbufAfter b s s.rxPbuf :=
  congrArg State.rxPbuf (takeByte_eq_withRest b s)

/-- A byte is taken alike whatever stands outside the parser. -/
theorem takeByte_inContext (u s : State) : takeByte b (inContext u s) = inContext u (takeByte b s) := by
  simp [inContext, takeByte_withRest]

theorem takeEvent_inContext (e : RxEvent) (u s : State) :
    takeEvent e (inContext u s) = inContext u (takeEvent e s) := by
  cases e with
  | byte b => exact takeByte_inContext b u s
  | short => rfl

/-- An event changes nothing outside the parser. -/
theorem takeEvent_eq_inContext (e : RxEvent) (s : State) : takeEvent e s = inContext s (takeEvent e s) :=
  takeEvent_inContext e s s

/-- That an event is removed from RXS changes nothing of how it is taken. -/
theorem takeEvent_consume (e : RxEvent) (s : State) :
    takeEvent e (consume s) = { takeEvent e s with rxs := s.rxs.tail } := by
  rw [takeEvent_eq_inContext e s]
  exact takeEvent_inContext e (consume s) s

end Sys2Proof.Machine
end

section
/-! PROOFS. The statements about the parser's operations one by one (43_frame_decode.md). -/

namespace Sys2Proof.Machine

theorem exec_rxByte_of_offered {s : State} (b : Byte) (h : s.rxSt.isActive = true) (ho : Offered (.byte b) s) :
    exec (.rxByte b) s = .next { takeByte b s with rxs := s.rxs.tail, ret := [] } := by
  rw [exec_rxByte, deliver_of_offered h ho, takeEvent_consume]
  rfl

theorem exec_rxShort_of_offered {s : State} (h : s.rxSt.isActive = true) (ho : Offered .short s) :
    exec .rxShort s = .next { s with rxs := s.rxs.tail, ret := [], rxRes := .truncated, rxSt := .done } :=
  deliver_of_offered h ho

/-- Settles O22: an active state and an offered event are what `deliver` asks for, and it consumes the first event. -/
theorem transportEventsOnlyWhileActive : Obligations.TransportEventsOnlyWhileActive := by
  intro s b
  rw [exec_rxByte, exec_rxShort]
  refine ⟨fun h => ?inactive, fun h => ?active⟩
  case inactive =>
    have hinactive : s.rxSt.isActive = false := RxStage.isActive_eq_false_iff.mpr h
    exact ⟨deliver_of_inactive _ hinactive, deliver_of_inactive _ hinactive⟩
  case active =>
    have hactive : s.rxSt.isActive = true := RxStage.isActive_eq_true_iff.mpr h
    exact ⟨fun ho => ⟨_, deliver_of_offered hactive ho, takeEvent_rxs _ _⟩, deliver_of_not_offered hactive,
      fun ho => ⟨_, deliver_of_offered hactive ho, takeEvent_rxs _ _⟩, deliver_of_not_offered hactive⟩

/-- Settles O23, by variant and byte. -/
theorem rxByteAwaitingTheMarker : Obligations.RxByteAwaitingTheMarker := by
  intro s b hst ho
  have hactive : s.rxSt.isActive = true := by rw [hst]; rfl
  rw [exec_rxByte_of_offered b hactive ho]
  refine ⟨?markerA, ?noise, ?markerB, ?wrongDirection, by decide⟩ <;> intro hv hb
  case markerA | markerB =>
    rw [takeByte_marker hst hv hb]
    rfl
  case noise => rw [takeByte_noise hst hv hb]
  case wrongDirection =>
    rw [takeByte_wrongDirection hst hv hb]
    rfl

/-- Settles O24, by RX_CNT and A_TAG_POS. -/
theorem rxByteInTheHeader : Obligations.RxByteInTheHeader := by
  intro s b hst hcnt ho
  have hactive : s.rxSt.isActive = true := by rw [hst]; rfl
  have hcases : s.rxCnt = 0#8 ∨ s.rxCnt = 1#8 ∨ s.rxCnt = 2#8 := by bv_omega
  refine ⟨?_, by decide, by decide, by decide⟩
  rw [exec_rxByte_of_offered b hactive ho, takeByte_header b hst, takeHeader_eq]
  cases s.params.aTagPos <;> rcases hcases with hc | hc | hc <;> simp [hc, hst, tagCount]

/-- Settles O25: `takePayload_eq`; a read after a write to the same entry and to another. -/
theorem rxByteInThePayload : Obligations.RxByteInThePayload := by
  intro s b hst _ ho
  have hactive : s.rxSt.isActive = true := by rw [hst]; rfl
  refine ⟨⟨Memory.write s.rxPbuf s.rxCnt.toNat b, ?_, read_write_same _ _ _, fun i => read_write_other _ b⟩, by decide⟩
  rw [exec_rxByte_of_offered b hactive ho, takeByte_payload b hst, takePayload_eq, hst]

/-- Settles O26: `takeTrailerA_eq`, the tag of `tagOf` written out. -/
theorem rxByteInTheTrailerA : Obligations.RxByteInTheTrailerA := by
  intro s b hst hv ho
  have hactive : s.rxSt.isActive = true := by rw [hst]; rfl
  rw [exec_rxByte_of_offered b hactive ho, takeByte_trailerA b hst hv, takeTrailerA_eq b s hv]
  rfl

/-- The low half of a received trailer, the high half kept, in arithmetic. -/
theorem joinHalf_hi_eq (c : Half) (b : Byte) :
    joinHalf (hi c) b = BitVec.ofNat 16 (b.toNat + 256 * (c.toNat / 256)) := by
  rw [← toNat_hi, ← toNat_joinHalf, BitVec.ofNat_toNat, BitVec.setWidth_eq]

/-- Settles O27: RX_CNT says which half of RX_CHK the byte is. -/
theorem rxByteInTheTrailerB : Obligations.RxByteInTheTrailerB := by
  intro s b hst hv ho
  have hactive : s.rxSt.isActive = true := by rw [hst]; rfl
  rw [exec_rxByte_of_offered b hactive ho, takeByte_trailerB b hst hv]
  refine ⟨fun hc => ?low, fun hc => ⟨joinHalf b (lo s.rxChk), ?value, ?high⟩⟩
  case low => rw [takeTrailerB_low b s hc, ← joinHalf_hi_eq]
  case value => rw [toNat_joinHalf, toNat_lo]
  case high => rw [takeTrailerB_high b s hv hc]

/-- Settles O28: RX.SHORT raises TRUNCATED where a parse is active and is no step elsewhere. -/
theorem rxShortTruncates : Obligations.RxShortTruncates := by
  intro s rest
  refine ⟨decodeCommand_toByte .rxShort rest, fun h ho => ?active, fun h => ?inactive⟩
  case active => exact exec_rxShort_of_offered (RxStage.isActive_eq_true_iff.mpr h) ho
  case inactive => exact deliver_of_inactive .short (RxStage.isActive_eq_false_iff.mpr h)

/-- A frame row of each kind answers the arrival of its bytes (R87). -/
theorem exec_of_isFrame {i : Instr} (h : isFrame i = true) (s : State) :
    exec i s = .next (reply [] (arrive (encode i) s)) := by
  cases i
  case frameAD2H | frameAH2D | frameBD2H | frameBH2D => rfl
  all_goals cases h

/-- Settles O46: where no parse is active an arrival waits. -/
theorem framesWaitWhileNoParseIsActive : Obligations.FramesWaitWhileNoParseIsActive := by
  intro s i hi h
  rw [exec_of_isFrame hi, arrive_inactive (RxStage.isActive_eq_false_iff.mpr h)]
  rfl

end Sys2Proof.Machine
end

section
/-! SUPPORT. The parser's invariant, stage by stage (R178): what a byte, a short read and a start do to it. -/

namespace Sys2Proof.Machine

/-! The invariant speaks of the parser's registers and the constants only. -/

@[simp] theorem stateInv_reply (bs : List Byte) (s : State) : StateInv (reply bs s) ↔ StateInv s := Iff.rfl

theorem stateInv_reset : StateInv State.reset :=
  ⟨by simp [State.reset], rfl, rfl, trivial⟩

theorem stateInv_hardReset (s : State) : StateInv (hardReset s) :=
  ⟨by simp, rfl, rfl, trivial⟩

theorem stateInv_startParse {s : State} (h : StateInv s) (v : Variant) : StateInv (startParse v s) := by
  obtain ⟨-, hwf, hlast, -⟩ := h
  exact ⟨by simp, hwf, hlast, rfl, rfl, rfl, rfl⟩

/-- A parse that ends without a valid frame keeps the invariant: nothing is claimed of its record. -/
theorem stateInv_of_fault {s : State} (hwf : Memory.wf s.rxPbuf = true) (hlast : Memory.read s.rxPbuf 255 = none)
    (hst : s.rxSt = .done)
    (hr : s.rxRes = .truncated ∨ s.rxRes = .wrongDirection ∨ s.rxRes = .checksumMismatch) : StateInv s := by
  refine ⟨?_, hwf, hlast, ?_⟩
  · rcases hr with hr | hr | hr <;> simp [hr, hst]
  · rw [stageInv, hst]
    intro hvalid
    rcases hr with hr | hr | hr <;> simp [hr] at hvalid

theorem rxRes_none_of_active {s : State} (h : StateInv s) (ha : s.rxSt.isActive = true) : s.rxRes = .none := by
  refine h.1.mpr ?_
  rintro hst
  rw [hst] at ha
  cases ha

@[simp] theorem coveredHeaderA_zero (s : State) : coveredHeaderA s 0 = [] := by
  unfold coveredHeaderA
  cases s.params.aTagPos <;> rfl

theorem takeMarker_keeps_stateInv {s : State} (h : StateInv s) (hst : s.rxSt = .awaitMarker) (b : Byte) :
    StateInv (takeMarker b s) := by
  have hres := rxRes_none_of_active h (by rw [hst]; rfl)
  have hinv := h
  obtain ⟨-, hwf, hlast, hstage⟩ := h
  rw [stageInv, hst] at hstage
  obtain ⟨hcnt, hsum, hcrc, hchk⟩ := hstage
  unfold takeMarker
  cases hv : s.rxVar <;> dsimp only <;> split
  case a.isTrue hb =>
    exact ⟨by simp [hres], hwf, hlast, by simp, hchk, by simp [hb], by simpa using hsum⟩
  case a.isFalse => exact hinv
  case b.isTrue hb =>
    exact ⟨by simp [hres], hwf, hlast, by simp, hchk, by simp [hb], congrArg (crcUpdate · b) hcrc⟩
  case b.isFalse => exact stateInv_of_fault hwf hlast rfl (.inr (.inl rfl))

/-! What a header byte leaves alone, and where it leads. -/

section HeaderFields

variable (b : Byte) (s : State)

@[simp] theorem takeHeader_rxRes : (takeHeader b s).rxRes = s.rxRes := by rw [takeHeader_eq]
@[simp] theorem takeHeader_rxPbuf : (takeHeader b s).rxPbuf = s.rxPbuf := by rw [takeHeader_eq]
@[simp] theorem takeHeader_rxChk : (takeHeader b s).rxChk = s.rxChk := by rw [takeHeader_eq]

theorem takeHeader_rxSt : (takeHeader b s).rxSt =
    if s.rxCnt.toNat < 2 then s.rxSt else if b = 0x00#8 then .trailer else .payload := by rw [takeHeader_eq]

theorem takeHeader_rxCnt : (takeHeader b s).rxCnt = if s.rxCnt.toNat < 2 then s.rxCnt + 1#8 else 0#8 := by
  rw [takeHeader_eq]

/-- The third header byte is the length. -/
theorem takeHeader_rxLen (h : s.rxCnt = 2#8) : (takeHeader b s).rxLen = b := by
  rw [takeHeader_eq]
  exact if_pos h

end HeaderFields

/-! A header byte is the next of the header bytes taken, and of the covered ones if it is covered (R164). -/

section Header

variable {s : State} (b : Byte) (hcnt : s.rxCnt.toNat ≤ 2)
include hcnt

theorem rxCnt_of_le_two : s.rxCnt = 0#8 ∨ s.rxCnt = 1#8 ∨ s.rxCnt = 2#8 := by bv_omega

theorem headerTaken_takeHeader :
    headerTaken (takeHeader b s) (s.rxCnt.toNat + 1) = headerTaken s s.rxCnt.toNat ++ [b] := by
  rw [takeHeader_eq]
  rcases rxCnt_of_le_two hcnt with hc | hc | hc <;> simp [hc, headerTaken]

theorem coveredHeaderA_takeHeader :
    coveredHeaderA (takeHeader b s) (s.rxCnt.toNat + 1) = coveredHeaderA s s.rxCnt.toNat ++
      if s.rxCnt = tagCount s.params.aTagPos ∨ s.rxCnt = 2#8 then [b] else [] := by
  rw [takeHeader_eq]
  unfold coveredHeaderA
  cases s.params.aTagPos <;> rcases rxCnt_of_le_two hcnt with hc | hc | hc <;> simp [hc, tagCount]

theorem accumulated_takeHeader (h : accumulated s s.rxCnt.toNat []) :
    accumulated (takeHeader b s) (s.rxCnt.toNat + 1) [] := by
  obtain ⟨hdir, hacc⟩ := h
  have hheader := headerTaken_takeHeader b hcnt
  have hcovered := coveredHeaderA_takeHeader b hcnt
  unfold accumulated
  rw [hheader, hcovered, takeHeader_eq]
  refine ⟨hdir, ?_⟩
  cases hv : s.rxVar <;> rw [hv] at hacc <;> simp only [List.append_nil] at hacc ⊢
  case a => by_cases hc : s.rxCnt = tagCount s.params.aTagPos ∨ s.rxCnt = 2#8 <;> simp [hc, hacc, sumBytes_append]
  case b => simp [hacc, crc16_append]

end Header

theorem takeHeader_keeps_stateInv {s : State} (h : StateInv s) (hst : s.rxSt = .header) (b : Byte) :
    StateInv (takeHeader b s) := by
  have hres := rxRes_none_of_active h (by rw [hst]; rfl)
  obtain ⟨-, hwf, hlast, hstage⟩ := h
  rw [stageInv, hst] at hstage
  obtain ⟨hcnt, hchk, hacc⟩ := hstage
  have hacc' := accumulated_takeHeader b hcnt hacc
  by_cases hn : s.rxCnt.toNat < 2
  case pos =>
    have hst' : (takeHeader b s).rxSt = .header := by rw [takeHeader_rxSt, if_pos hn, hst]
    have hcnt' : (takeHeader b s).rxCnt.toNat = s.rxCnt.toNat + 1 := by
      rw [takeHeader_rxCnt, if_pos hn]
      bv_omega
    refine ⟨by simp [hst', hres], by simpa using hwf, by simpa using hlast, ?_⟩
    rw [stageInv, hst', hcnt']
    exact ⟨by omega, by simpa using hchk, hacc'⟩
  case neg =>
    have hc : s.rxCnt = 2#8 := by bv_omega
    have hlen := takeHeader_rxLen b s hc
    have hcnt' : (takeHeader b s).rxCnt = 0#8 := by rw [takeHeader_rxCnt, if_neg hn]
    rw [show s.rxCnt.toNat + 1 = 3 by omega] at hacc'
    have hchk' : (takeHeader b s).rxChk = 0x0000#16 := by simpa using hchk
    by_cases hb : b = 0x00#8
    case pos =>
      have hst' : (takeHeader b s).rxSt = .trailer := by rw [takeHeader_rxSt, if_neg hn, if_pos hb]
      refine ⟨by simp [hst', hres], by simpa using hwf, by simpa using hlast, ?_⟩
      rw [stageInv, hst', hcnt', hlen.trans hb, hchk']
      exact ⟨Nat.zero_le _, fun _ => rfl, rfl, [], rfl, hacc'⟩
    case neg =>
      have hst' : (takeHeader b s).rxSt = .payload := by rw [takeHeader_rxSt, if_neg hn, if_neg hb]
      refine ⟨by simp [hst', hres], by simpa using hwf, by simpa using hlast, ?_⟩
      rw [stageInv, hst', hcnt', hlen]
      exact ⟨by bv_omega, hchk', [], rfl, hacc'⟩

/-! What a payload byte leaves alone. -/

section PayloadFields

variable (b : Byte) (s : State)

@[simp] theorem takePayload_rxRes : (takePayload b s).rxRes = s.rxRes := by rw [takePayload_eq]
@[simp] theorem takePayload_rxChk : (takePayload b s).rxChk = s.rxChk := by rw [takePayload_eq]
@[simp] theorem takePayload_rxLen : (takePayload b s).rxLen = s.rxLen := by rw [takePayload_eq]

@[simp] theorem takePayload_rxPbuf : (takePayload b s).rxPbuf = Memory.write s.rxPbuf s.rxCnt.toNat b := by
  rw [takePayload_eq]

theorem takePayload_rxSt :
    (takePayload b s).rxSt = if s.rxCnt.toNat + 1 = s.rxLen.toNat then .trailer else s.rxSt := by rw [takePayload_eq]

theorem takePayload_rxCnt :
    (takePayload b s).rxCnt = if s.rxCnt.toNat + 1 = s.rxLen.toNat then 0#8 else s.rxCnt + 1#8 := by
  rw [takePayload_eq]

end PayloadFields

/-- A payload byte is the next of the payload bytes, and covered in either variant (R88, R89). -/
theorem accumulated_takePayload {s : State} {n : Nat} {p : List Byte} (h : accumulated s n p) (b : Byte) :
    accumulated (takePayload b s) n (p ++ [b]) := by
  obtain ⟨hdir, hacc⟩ := h
  unfold accumulated
  rw [takePayload_eq]
  refine ⟨hdir, ?_⟩
  cases hv : s.rxVar <;> rw [hv] at hacc <;> simp only at hacc ⊢
  case a => simp [hacc, sumBytes_append, BitVec.add_assoc, coveredHeaderA]
  case b =>
    have happend : crc16 (headerTaken s n ++ (p ++ [b])) = crcUpdate (crc16 (headerTaken s n ++ p)) b := by
      rw [← List.append_assoc, crc16_append]
      rfl
    exact (congrArg (crcUpdate · b) hacc).trans happend.symm

theorem takePayload_keeps_stateInv {s : State} (h : StateInv s) (hst : s.rxSt = .payload) (b : Byte) :
    StateInv (takePayload b s) := by
  have hres := rxRes_none_of_active h (by rw [hst]; rfl)
  obtain ⟨-, hwf, hlast, hstage⟩ := h
  rw [stageInv, hst] at hstage
  obtain ⟨hcnt, hchk, p, hread, hacc⟩ := hstage
  have hread' := readFirst_write_next b hread
  have hacc' := accumulated_takePayload hacc b
  have hwf' : Memory.wf (takePayload b s).rxPbuf = true := by
    rw [takePayload_rxPbuf]
    exact write_wf hwf s.rxCnt.isLt
  have hlast' : Memory.read (takePayload b s).rxPbuf 255 = none := by
    rw [takePayload_rxPbuf, read_write_other _ _ (by omega), hlast]
  have hchk' : (takePayload b s).rxChk = 0x0000#16 := by simpa using hchk
  by_cases hend : s.rxCnt.toNat + 1 = s.rxLen.toNat
  case pos =>
    have hst' : (takePayload b s).rxSt = .trailer := by rw [takePayload_rxSt, if_pos hend]
    have hcnt' : (takePayload b s).rxCnt = 0#8 := by rw [takePayload_rxCnt, if_pos hend]
    refine ⟨by simp [hst', hres], hwf', hlast', ?_⟩
    rw [stageInv, hst', hcnt', hchk', takePayload_rxLen, takePayload_rxPbuf, ← hend]
    exact ⟨Nat.zero_le _, fun _ => rfl, rfl, _, hread', hacc'⟩
  case neg =>
    have hst' : (takePayload b s).rxSt = .payload := by rw [takePayload_rxSt, if_neg hend, hst]
    have hcnt' : (takePayload b s).rxCnt.toNat = s.rxCnt.toNat + 1 := by
      rw [takePayload_rxCnt, if_neg hend]
      bv_omega
    refine ⟨by simp [hst', hres], hwf', hlast', ?_⟩
    rw [stageInv, hst', hcnt', takePayload_rxLen, takePayload_rxPbuf]
    exact ⟨by omega, hchk', _, hread', hacc'⟩

/-- The result of a trailer that is compared: of the two accepting results, OK says that the tag is known (R170). -/
theorem ok_iff_of_resolve {known : Bool} {r : RxRes} (h : r = if known = true then .ok else .unknownTag) :
    r = .ok ↔ known = true := by
  cases known <;> simp [h]

theorem takeTrailerA_keeps_stateInv {s : State} (h : StateInv s) (hst : s.rxSt = .trailer) (hv : s.rxVar = .a)
    (b : Byte) : StateInv (takeTrailerA b s) := by
  obtain ⟨-, hwf, hlast, hstage⟩ := h
  rw [stageInv, hst] at hstage
  obtain ⟨-, -, -, p, hread, hacc⟩ := hstage
  unfold takeTrailerA
  dsimp only
  split
  case isTrue hb =>
    refine ⟨?_, hwf, hlast, fun _ => ⟨p, hread, hacc, ok_iff_of_resolve rfl, ?_⟩⟩
    · simp only [resolve]
      split <;> simp
    · simp [resolve, hv, hb]
  case isFalse => exact stateInv_of_fault hwf hlast rfl (.inr (.inr rfl))

theorem takeTrailerB_keeps_stateInv {s : State} (h : StateInv s) (hst : s.rxSt = .trailer) (hv : s.rxVar = .b)
    (b : Byte) : StateInv (takeTrailerB b s) := by
  have hinv := h
  obtain ⟨hnone, hwf, hlast, hstage⟩ := h
  rw [stageInv, hst] at hstage
  obtain ⟨hcnt, hchk, hhi, p, hread, hacc⟩ := hstage
  unfold takeTrailerB
  dsimp only
  split
  case isTrue hc =>
    refine ⟨hnone, hwf, hlast, ?_⟩
    rw [stageInv, hst]
    exact ⟨by simp [hv, Variant.code], by simp, by simpa using hhi, p, hread, hacc⟩
  case isFalse hc =>
    split
    case isTrue heq =>
      refine ⟨?_, hwf, hlast, fun _ => ⟨p, hread, hacc, ok_iff_of_resolve rfl, ?_⟩⟩
      · simp only [resolve]
        split <;> simp
      · simpa [resolve, hv] using heq
    case isFalse => exact stateInv_of_fault hwf hlast rfl (.inr (.inr rfl))

theorem takeByte_keeps_stateInv {s : State} (h : StateInv s) (b : Byte) : StateInv (takeByte b s) := by
  cases hst : s.rxSt
  case idle | done => rwa [takeByte_of_inactive b (by rw [hst]; rfl)]
  case awaitMarker =>
    rw [takeByte_awaitMarker b hst]
    exact takeMarker_keeps_stateInv h hst b
  case header =>
    rw [takeByte_header b hst]
    exact takeHeader_keeps_stateInv h hst b
  case payload =>
    rw [takeByte_payload b hst]
    exact takePayload_keeps_stateInv h hst b
  case trailer =>
    cases hv : s.rxVar
    case a =>
      rw [takeByte_trailerA b hst hv]
      exact takeTrailerA_keeps_stateInv h hst hv b
    case b =>
      rw [takeByte_trailerB b hst hv]
      exact takeTrailerB_keeps_stateInv h hst hv b

theorem takeEvent_keeps_stateInv {s : State} (h : StateInv s) (e : RxEvent) : StateInv (takeEvent e s) := by
  cases e with
  | byte b => exact takeByte_keeps_stateInv h b
  | short => exact stateInv_of_fault h.2.1 h.2.2.1 rfl (.inl rfl)

theorem arrive_keeps_stateInv {s : State} (h : StateInv s) (bs : List Byte) : StateInv (arrive bs s) :=
  answerRead_keeps (P := StateInv) (fun _ _ hs => hs) (fun e _ _ hs => takeEvent_keeps_stateInv hs e) h

/-- Every instruction keeps the invariant: only the parser's touch its registers. -/
theorem exec_keeps_stateInv {i : Instr} {s t : State} (h : StateInv s) (hexec : exec i s = .next t) : StateInv t := by
  cases i
  case sumInit | sumByte | sumRead | crcInit | crcByte | crcRead =>
    cases hexec
    exact h
  case txBuildA | txBuildB =>
    cases hexec
    rw [build_eq]
    exact h
  case rxStartA | rxStartB =>
    obtain ⟨-, rfl⟩ := start_eq_next.mp hexec
    exact (stateInv_reply _ _).mpr (stateInv_startParse h _)
  case rxByte | rxShort =>
    obtain ⟨-, -, rfl⟩ := deliver_eq_next.mp hexec
    exact takeEvent_keeps_stateInv (s := consume s) h _
  case frameAD2H | frameAH2D | frameBD2H | frameBH2D =>
    cases hexec
    exact arrive_keeps_stateInv h _

end Sys2Proof.Machine
end

section
/-! PROOFS. The statements about the parser's invariant (43_frame_decode.md section 6, 10_state.md section 6). -/

namespace Sys2Proof.Machine

/-- Settles O29: after reset no parse is active, so the stage asks for nothing. -/
theorem invariantHoldsAtReset : Obligations.InvariantHoldsAtReset := stateInv_reset

/-- Settles O30: a step is an instruction, an arrival or a reset, and each keeps the invariant; for a byte taken, stage
by stage. -/
theorem stepKeepsTheInvariant : Obligations.StepKeepsTheInvariant := by
  intro s t h hstep
  obtain ⟨ins, ⟨i, hexec⟩ | ⟨bs, rfl⟩ | rfl⟩ := step_effects hstep
  · exact exec_keeps_stateInv (s := { s with inputs := ins }) h hexec
  · exact arrive_keeps_stateInv (s := { s with inputs := ins }) h bs
  · exact stateInv_hardReset _

end Sys2Proof.Machine
end

section
/-! SUPPORT. The result port (R42): the record of a valid frame, entry by entry, and its covered bytes. -/

namespace Sys2Proof.Machine

theorem read_of_readFirst {m : Memory} {n : Nat} {p : List Byte} (h : Memory.readFirst m n = some p) {i : Nat}
    (hi : i < n) : Memory.read m i = p[i]? := by
  induction n generalizing p with
  | zero => cases hi
  | succ n ih =>
    simp only [Memory.readFirst] at h
    split at h
    case h_2 => cases h
    case h_1 q b hq hb =>
      cases h
      have hlen := readFirst_length hq
      by_cases hin : i = n
      · rw [hin, hb, ← hlen]
        simp
      · rw [ih hq (by omega), List.getElem?_append_left (by omega)]

theorem frameRecord_of_valid {s : State} (h : rxFrameValid s = true) {p : List Byte}
    (hp : Memory.readFirst s.rxPbuf s.rxLen.toNat = some p) :
    frameRecord s = some ⟨s.rxDir, s.rxB1, s.rxB2, s.rxLen, p, s.rxChk⟩ := by
  simp only [frameRecord, h, if_true, hp]

theorem frameRecord_of_not_valid {s : State} (h : ¬ rxFrameValid s = true) : frameRecord s = none := if_neg h

/-- The covered bytes of a whole variant A header are the tag and the length (R88). -/
theorem coveredHeaderA_three (s : State) :
    coveredHeaderA s 3 = [tagOf s.params.aTagPos s.rxB1 s.rxB2, s.rxLen] := by
  unfold coveredHeaderA
  cases s.params.aTagPos <;> rfl

/-- The sum of the tag, the length as received and a payload of that length is sum8 (R110). -/
theorem sumBytes_covered {len : Byte} {p : List Byte} (h : p.length = len.toNat) (t : Byte) :
    sumBytes ([t, len] ++ p) = sum8 t p := by
  rw [sum8_eq_sumBytes, lenByte, h, BitVec.ofNat_toNat, BitVec.setWidth_eq]
  rfl

end Sys2Proof.Machine
end

section
/-! PROOFS. The statements about what a step from a state of the invariant does and what the result port yields
(43_frame_decode.md section 6, 10_state.md section 6). -/

namespace Sys2Proof.Machine

/-- Settles O31, instruction by instruction; a byte stage by stage, where the invariant bounds RX_CNT and RX_RES is
NONE. -/
theorem transitionsAreThoseOfTheTable : Obligations.TransitionsAreThoseOfTheTable := by
  intro s t i h hframe hexec
  cases i
  case frameAD2H | frameAH2D | frameBD2H | frameBH2D => cases hframe
  case sumInit | sumByte | sumRead | crcInit | crcByte | crcRead =>
    cases hexec
    exact ⟨rfl, rfl⟩
  case txBuildA | txBuildB =>
    cases hexec
    rw [build_eq]
    exact ⟨rfl, rfl⟩
  case rxStartA | rxStartB =>
    obtain ⟨hinactive, rfl⟩ := start_eq_next.mp hexec
    exact ⟨RxStage.isActive_eq_false_iff.mp hinactive, rfl, rfl⟩
  case rxShort =>
    obtain ⟨hactive, -, rfl⟩ := deliver_eq_next.mp hexec
    exact ⟨RxStage.isActive_eq_true_iff.mp hactive, rfl, rfl⟩
  case rxByte b =>
    obtain ⟨hactive, -, rfl⟩ := deliver_eq_next.mp hexec
    have hres := rxRes_none_of_active h hactive
    obtain ⟨-, -, -, hstage⟩ := h
    simp only [takeEvent_consume, takeEvent_byte, reply_rxSt, reply_rxRes, reply_rxChk]
    rcases RxStage.isActive_eq_true_iff.mp hactive with hst | hst | hst | hst
    all_goals simp only [stageInv, hst] at hstage
    case inl =>
      rw [takeByte_awaitMarker b hst, takeMarker]
      cases hv : s.rxVar
      case a => by_cases hb : b = 0xF0#8 <;> simp [hst, hb, hres, acceptedMarker, markerA]
      case b => by_cases hb : b = 0xFA#8 <;> simp [hst, hb, hres, acceptedMarker, markerB]
    case inr.inl =>
      rw [takeByte_header b hst, takeHeader_rxSt, takeHeader_rxRes]
      by_cases hn : s.rxCnt.toNat < 2
      · simp [hst, hn, hres]
      · have h2 : s.rxCnt.toNat = 2 := by omega
        by_cases hb : b = 0x00#8 <;> simp [hst, h2, hb, hres]
    case inr.inr.inl =>
      rw [takeByte_payload b hst, takePayload_rxSt, takePayload_rxRes]
      by_cases hend : s.rxCnt.toNat + 1 = s.rxLen.toNat
      · simp [hst, hend, hres]
      · have hlt : s.rxCnt.toNat + 1 < s.rxLen.toNat := by omega
        simp [hst, hend, hlt, hres]
    case inr.inr.inr =>
      cases hv : s.rxVar
      case a =>
        rw [takeByte_trailerA b hst hv, takeTrailerA_eq b s hv]
        have hsum : b.setWidth 16 = s.rxSum.setWidth 16 ↔ b = s.rxSum := setWidth16_injective.eq_iff
        simp [hst, tagIsKnown, hv, hsum]
      case b =>
        rw [takeByte_trailerB b hst hv]
        by_cases hc : s.rxCnt = 0#8
        · rw [takeTrailerB_low b s hc]
          simp [hst, hc, hres]
        · have h1 : s.rxCnt = 1#8 := by
            have hle : s.rxCnt.toNat ≤ 1 := by simpa [hv, Variant.code] using hstage.1
            bv_omega
          rw [takeTrailerB_high b s hv hc]
          simp [hst, h1, tagIsKnown, hv]

/-- Settles O42: what the invariant says of DONE, with the record read from the buffer. -/
theorem acceptedFramesVerify : Obligations.AcceptedFramesVerify := by
  intro s h
  obtain ⟨-, -, -, hstage⟩ := h
  by_cases hvalid : rxFrameValid s = true
  case neg =>
    have hnone := frameRecord_of_not_valid hvalid
    rw [rxFrameValid_iff] at hvalid
    simp [hnone, hvalid]
  case pos =>
    have hdone := (rxFrameValid_iff.mp hvalid).1
    rw [stageInv, hdone] at hstage
    obtain ⟨p, hread, ⟨hdir, hacc⟩, hok, hchk⟩ := hstage hvalid
    have hlen := readFirst_length hread
    have hrec := frameRecord_of_valid hvalid hread
    refine ⟨⟨fun _ => rxFrameValid_iff.mp hvalid, fun _ => by simp [hrec]⟩, fun r hr => ?_⟩
    obtain rfl : _ = r := Option.some.inj (hrec.symm.trans hr)
    refine ⟨rfl, rfl, rfl, rfl, rfl, hlen, fun i hi => read_of_readFirst hread hi, fun hv => ?a, fun hv => ?b⟩
    case a =>
      simp only [hv, coveredHeaderA_three, sumBytes_covered hlen] at hdir hacc hchk
      simp only [tagIsKnown, hv] at hok
      exact ⟨hdir, by rw [hchk, hacc], hok⟩
    case b =>
      simp only [hv] at hdir hacc hchk
      simp only [tagIsKnown, hv] at hok
      exact ⟨hdir, by rw [hchk, hacc]; rfl, hok⟩

end Sys2Proof.Machine
end

section
/-! SUPPORT. What an instruction can do and what a step can be, each said once (R45, R71); and what the parser's events
leave alone outside the parser. -/

namespace Sys2Proof.Machine

section Outside

variable (e : RxEvent) (bs : List Byte) (s : State)

@[simp] theorem takeEvent_params : (takeEvent e s).params = s.params := by
  have h := standing_takeEvent e s
  simp only [standing, Prod.mk.injEq] at h
  simp [h]

@[simp] theorem takeEvent_txs : (takeEvent e s).txs = s.txs := by
  have h := standing_takeEvent e s
  simp only [standing, Prod.mk.injEq] at h
  simp [h]

@[simp] theorem takeEvent_txRes : (takeEvent e s).txRes = s.txRes := by
  have h := standing_takeEvent e s
  simp only [standing, Prod.mk.injEq] at h
  simp [h]

/-- An arrival leaves everything outside the parser but RXS alone. -/
theorem arrive_standing : standing { arrive bs s with rxs := s.rxs } = standing s := by
  have h := answerRead_standing { s with rxs := s.rxs ++ bs.map .byte }
  simp only [standing, Prod.mk.injEq] at h ⊢
  simpa [arrive] using h

@[simp] theorem arrive_params : (arrive bs s).params = s.params := by
  have h := arrive_standing bs s
  simp only [standing, Prod.mk.injEq] at h
  simp [h]

@[simp] theorem arrive_txs : (arrive bs s).txs = s.txs := by
  have h := arrive_standing bs s
  simp only [standing, Prod.mk.injEq] at h
  simp [h]

@[simp] theorem arrive_txRes : (arrive bs s).txRes = s.txRes := by
  have h := arrive_standing bs s
  simp only [standing, Prod.mk.injEq] at h
  simp [h]

end Outside

/-- What an instruction that answers a next state did: an operation of the sum or the CRC unit, a build, a start, an
event taken, or a frame arriving. -/
theorem exec_cases {i : Instr} {s t : State} (h : exec i s = .next t) :
    (partOf i = .sum ∧ ∃ v r, t = { s with sum := v, ret := r }) ∨
    (partOf i = .crc ∧ ∃ v r, t = { s with crc := v, ret := r }) ∨
    (∃ d b1 b2 p, i = .txBuildA d b1 b2 p ∧ t = build (frameA s.params.aTagPos d b1 b2 p) p s) ∨
    (∃ d b1 b2 p, i = .txBuildB d b1 b2 p ∧ t = build (frameB d b1 b2 p) p s) ∨
    (∃ v, i = startInstr v ∧ s.rxSt.isActive = false ∧ t = reply [] (startParse v s)) ∨
    (∃ e : RxEvent, i = e.instr ∧ s.rxSt.isActive = true ∧ offers e s = true ∧
      t = reply [] (takeEvent e (consume s))) ∨
    (isFrame i = true ∧ t = reply [] (arrive (encode i) s)) := by
  cases i
  case sumInit | sumByte | sumRead => cases h; exact .inl ⟨rfl, _, _, rfl⟩
  case crcInit | crcByte | crcRead => cases h; exact .inr (.inl ⟨rfl, _, _, rfl⟩)
  case txBuildA => cases h; exact .inr (.inr (.inl ⟨_, _, _, _, rfl, rfl⟩))
  case txBuildB => cases h; exact .inr (.inr (.inr (.inl ⟨_, _, _, _, rfl, rfl⟩)))
  case rxStartA => exact .inr (.inr (.inr (.inr (.inl ⟨.a, rfl, start_eq_next.mp h⟩))))
  case rxStartB => exact .inr (.inr (.inr (.inr (.inl ⟨.b, rfl, start_eq_next.mp h⟩))))
  case rxByte b => exact .inr (.inr (.inr (.inr (.inr (.inl ⟨.byte b, rfl, deliver_eq_next.mp h⟩)))))
  case rxShort => exact .inr (.inr (.inr (.inr (.inr (.inl ⟨.short, rfl, deliver_eq_next.mp h⟩)))))
  case frameAD2H | frameAH2D | frameBD2H | frameBH2D =>
    cases h; exact .inr (.inr (.inr (.inr (.inr (.inr ⟨rfl, rfl⟩)))))

@[simp] theorem isFrame_instr (e : RxEvent) : isFrame e.instr = false := by
  cases e <;> rfl

/-- A command is no frame: no code of R92 selects one. -/
theorem isFrame_of_decodeCommand {bs tail : List Byte} {i : Instr} (h : decodeCommand bs = .instr i tail) :
    isFrame i = false := by
  unfold decodeCommand at h
  split at h
  · cases h
  · split at h
    · cases h
    next op _ =>
      cases op
      case sumInit | sumRead | crcInit | crcRead | rxStartA | rxStartB | rxShort => cases h; rfl
      case sumByte | crcByte | rxByte =>
        obtain ⟨_, rfl, -⟩ := decodeOneByte_eq_instr h
        rfl
      case txBuildA | txBuildB =>
        obtain ⟨_, _, _, _, rfl, -⟩ := decodeBuild_eq_instr h
        rfl

/-- What is fetched to be run: only the inputs have changed, and a frame comes from the wire. -/
theorem fetch_eq_run {s u : State} {i : Instr} (h : fetch s = .run i u) :
    (∃ ins, u = { s with inputs := ins }) ∧ (isFrame i = true → ∃ bs rest, s.inputs = .wire bs :: rest) := by
  rcases fetch_cases s with ⟨_, _, _, _, _, hd, hf⟩ | ⟨_, _, _, _, hin, _, hf⟩ | ⟨_, _, _, hf⟩ | ⟨_, _, hf⟩ |
      ⟨_, _, _, _, _, hf⟩ | ⟨_, _, _, _, _, hf⟩ | ⟨_, _, hf⟩ | ⟨_, hf⟩ <;> rw [h] at hf <;> cases hf
  · exact ⟨⟨_, rfl⟩, by simp [isFrame_of_decodeCommand hd]⟩
  · exact ⟨⟨_, rfl⟩, fun _ => ⟨_, _, hin⟩⟩
  · exact ⟨⟨_, rfl⟩, by simp⟩
  · exact ⟨⟨s.inputs, rfl⟩, by simp⟩

theorem fetch_eq_arrival {s u : State} {bs : List Byte} (h : fetch s = .arrival bs u) :
    ∃ rest, s.inputs = .wire bs :: rest ∧ u = { s with inputs := rest } := by
  rcases fetch_cases s with ⟨_, _, _, _, _, hd, hf⟩ | ⟨_, _, _, _, hin, _, hf⟩ | ⟨_, _, hin, hf⟩ | ⟨_, _, hf⟩ |
      ⟨_, _, _, _, _, hf⟩ | ⟨_, _, _, _, _, hf⟩ | ⟨_, _, hf⟩ | ⟨_, hf⟩ <;> rw [h] at hf <;> cases hf
  exact ⟨_, hin, rfl⟩

theorem fetch_eq_reset {s u : State} (h : fetch s = .reset u) :
    ∃ rest, s.inputs = .reset :: rest ∧ u = { s with inputs := rest } := by
  rcases fetch_cases s with ⟨_, _, _, _, _, hd, hf⟩ | ⟨_, _, _, _, hin, _, hf⟩ | ⟨_, _, _, hf⟩ | ⟨_, hin, hf⟩ |
      ⟨_, _, _, _, _, hf⟩ | ⟨_, _, _, _, _, hf⟩ | ⟨_, _, hf⟩ | ⟨_, hf⟩ <;> rw [h] at hf <;> cases hf
  exact ⟨_, hin, rfl⟩

/-- What a step that answers a next state did: an instruction, which is a frame only from the wire, wire bytes that
arrived, or a reset, each with the input it came from. -/
theorem step_sources {s t : State} (h : step s = .next t) :
    (∃ i ins, fetch s = .run i { s with inputs := ins } ∧ exec i { s with inputs := ins } = .next t ∧
      (isFrame i = true → ∃ bs rest, s.inputs = .wire bs :: rest)) ∨
    (∃ bs rest, s.inputs = .wire bs :: rest ∧ t = reply [] (arrive bs { s with inputs := rest })) ∨
    (∃ rest, s.inputs = .reset :: rest ∧ t = hardReset { s with inputs := rest }) := by
  rcases step_cases h with ⟨i, u, hf, hexec⟩ | ⟨bs, u, hf, rfl⟩ | ⟨u, hf, rfl⟩
  · obtain ⟨⟨ins, rfl⟩, hframe⟩ := fetch_eq_run hf
    exact .inl ⟨i, ins, hf, hexec, hframe⟩
  · obtain ⟨rest, hin, rfl⟩ := fetch_eq_arrival hf
    exact .inr (.inl ⟨bs, rest, hin, rfl⟩)
  · obtain ⟨rest, hin, rfl⟩ := fetch_eq_reset hf
    exact .inr (.inr ⟨rest, hin, rfl⟩)

theorem exec_params {i : Instr} {s t : State} (h : exec i s = .next t) : t.params = s.params := by
  rcases exec_cases h with ⟨-, _, _, rfl⟩ | ⟨-, _, _, rfl⟩ | ⟨_, _, _, _, -, rfl⟩ | ⟨_, _, _, _, -, rfl⟩ |
    ⟨_, -, -, rfl⟩ | ⟨_, -, -, -, rfl⟩ | ⟨-, rfl⟩ <;> simp [build_eq]

/-- No instruction writes to TXS but a build, which appends its frame where the payload fits (R67). -/
theorem exec_txs {i : Instr} {s t : State} (h : exec i s = .next t) :
    t.txs = s.txs ∨ ∃ d b1 b2 p, p.length ≤ 255 ∧
      (t.txs = s.txs ++ frameA s.params.aTagPos d b1 b2 p ∨ t.txs = s.txs ++ frameB d b1 b2 p) := by
  rcases exec_cases h with ⟨-, _, _, rfl⟩ | ⟨-, _, _, rfl⟩ | ⟨d, b1, b2, p, -, rfl⟩ | ⟨d, b1, b2, p, -, rfl⟩ |
    ⟨_, -, -, rfl⟩ | ⟨_, -, -, -, rfl⟩ | ⟨-, rfl⟩
  case inr.inr.inl | inr.inr.inr.inl =>
    by_cases hp : p.length > 255
    · exact .inl (by simp [build_eq, hp])
    · exact .inr ⟨d, b1, b2, p, Nat.not_lt.mp hp, by simp [build_eq, hp]⟩
  all_goals exact .inl (by simp)

/-- An instruction leaves TX_RES alone, or is a build and leaves a result there (R147, R148). -/
theorem exec_txRes {i : Instr} {s t : State} (h : exec i s = .next t) :
    t.txRes = s.txRes ∨ partOf i = .tx ∧ t.txRes ≠ .none := by
  rcases exec_cases h with ⟨-, _, _, rfl⟩ | ⟨-, _, _, rfl⟩ | ⟨_, _, _, p, rfl, rfl⟩ | ⟨_, _, _, p, rfl, rfl⟩ |
    ⟨_, -, -, rfl⟩ | ⟨_, -, -, -, rfl⟩ | ⟨-, rfl⟩
  case inr.inr.inl | inr.inr.inr.inl =>
    refine .inr ⟨rfl, ?_⟩
    rw [build_txRes]
    split <;> simp
  all_goals exact .inl (by simp)

theorem isFrame_of_partOf {i : Instr} (h : partOf i ≠ .rx) : isFrame i = false := by
  cases i
  case sumInit | sumByte | sumRead | crcInit | crcByte | crcRead | txBuildA | txBuildB => rfl
  all_goals exact absurd rfl h

@[simp] theorem isFrame_startInstr (v : Variant) : isFrame (startInstr v) = false := by
  cases v <;> rfl

/-- Removing the first event, if there is one, removes at most one. -/
theorem exists_append_tail (es : List RxEvent) : ∃ taken, es = taken ++ es.tail ∧ taken.length ≤ 1 := by
  cases es with
  | nil => exact ⟨[], by simp⟩
  | cons e es => exact ⟨[e], by simp⟩

/-- RXS after an instruction: what was there, a frame's bytes behind it, less at most the first event (R64, R71). -/
theorem exec_rxs {i : Instr} {s t : State} (h : exec i s = .next t) :
    ∃ taken, s.rxs ++ (if isFrame i = true then (encode i).map .byte else []) = taken ++ t.rxs ∧ taken.length ≤ 1 := by
  rcases exec_cases h with ⟨hi, _, _, rfl⟩ | ⟨hi, _, _, rfl⟩ | ⟨_, _, _, _, rfl, rfl⟩ | ⟨_, _, _, _, rfl, rfl⟩ |
    ⟨v, rfl, -, rfl⟩ | ⟨e, rfl, -, -, rfl⟩ | ⟨hi, rfl⟩
  case inl | inr.inl => exact ⟨[], by simp [isFrame_of_partOf (i := i) (by simp [hi])]⟩
  case inr.inr.inl | inr.inr.inr.inl => exact ⟨[], by simp [isFrame, build_eq]⟩
  case inr.inr.inr.inr.inl => exact ⟨[], by simp⟩
  case inr.inr.inr.inr.inr.inl => simpa using exists_append_tail s.rxs
  case inr.inr.inr.inr.inr.inr =>
    rw [if_pos hi]
    exact answerRead_rxs { s with rxs := s.rxs ++ (encode i).map .byte }

/-- At DONE, an instruction that is no start leaves the stage, the result and the record (R35, R217). -/
theorem exec_keeps_result {i : Instr} {s t : State} (h : exec i s = .next t) (hst : s.rxSt = .done)
    (hA : i ≠ .rxStartA) (hB : i ≠ .rxStartB) :
    t.rxSt = .done ∧ t.rxRes = s.rxRes ∧ frameRecord t = frameRecord s := by
  have hinactive : s.rxSt.isActive = false := by rw [hst]; rfl
  rcases exec_cases h with ⟨-, _, _, rfl⟩ | ⟨-, _, _, rfl⟩ | ⟨_, _, _, _, -, rfl⟩ | ⟨_, _, _, _, -, rfl⟩ |
    ⟨v, rfl, -, rfl⟩ | ⟨_, -, hactive, -, rfl⟩ | ⟨-, rfl⟩
  case inl | inr.inl => exact ⟨hst, rfl, rfl⟩
  case inr.inr.inl | inr.inr.inr.inl =>
    rw [build_eq]
    exact ⟨hst, rfl, rfl⟩
  case inr.inr.inr.inr.inl =>
    cases v
    · exact absurd rfl hA
    · exact absurd rfl hB
  case inr.inr.inr.inr.inr.inl =>
    rw [hinactive] at hactive
    cases hactive
  case inr.inr.inr.inr.inr.inr =>
    rw [arrive_inactive hinactive]
    exact ⟨hst, rfl, rfl⟩

end Sys2Proof.Machine
end

section
/-! PROOFS. The rules about every instruction and every step (20_memory.md, 10_state.md, 60_exceptions.md). -/

namespace Sys2Proof.Machine

/-- Settles O48: no instruction, arrival or reset writes the constants. -/
theorem constantsStayConstant : Obligations.ConstantsStayConstant := by
  intro s t h
  rcases step_sources h with ⟨i, ins, -, hexec, -⟩ | ⟨bs, rest, -, rfl⟩ | ⟨rest, -, rfl⟩
  · exact (exec_params hexec :)
  · simp
  · rfl

/-- Settles O49: only a build writes to TXS. -/
theorem transmitStreamGrowsByWholeFrames : Obligations.TransmitStreamGrowsByWholeFrames := by
  intro s t h
  rcases step_sources h with ⟨i, ins, -, hexec, -⟩ | ⟨bs, rest, -, rfl⟩ | ⟨rest, -, rfl⟩
  · exact (exec_txs hexec :)
  · exact .inl (by simp)
  · exact .inl rfl

/-- Settles O50: an instruction takes at most the first event, and only wire bytes, a frame or none, add any. -/
theorem receiveStreamIsTakenInOrder : Obligations.ReceiveStreamIsTakenInOrder := by
  refine ⟨fun s t i h => exec_rxs h, fun s t h => ?step⟩
  rcases step_sources h with ⟨i, ins, -, hexec, hwire⟩ | ⟨bs, rest, hin, rfl⟩ | ⟨rest, -, rfl⟩
  · obtain ⟨taken, hrxs, hlen⟩ := exec_rxs hexec
    refine ⟨taken, _, hrxs, hlen, fun hnot => if_neg fun hi => ?_⟩
    obtain ⟨bs, rest, hin⟩ := hwire hi
    exact hnot bs rest hin
  · obtain ⟨taken, hrxs, hlen⟩ := answerRead_rxs { s with inputs := rest, rxs := s.rxs ++ bs.map .byte }
    exact ⟨taken, _, hrxs, hlen, fun hnot => absurd hin (hnot bs rest)⟩
  · exact ⟨[], [], by simp⟩

/-- Settles O51: at DONE no read is answered and a frame waits; TX_RES is written by a build and by reset. -/
theorem resultsStayUntilTheNextCall : Obligations.ResultsStayUntilTheNextCall := by
  refine ⟨fun s t i h => ⟨exec_keeps_result h, fun htx => ?instr⟩, fun s t h hnoReset => ?step⟩
  case instr =>
    rcases exec_txRes h with heq | ⟨hi, -⟩
    · exact heq
    · exact absurd hi htx
  case step =>
    rcases step_sources h with ⟨i, ins, hfetch, hexec, -⟩ | ⟨bs, rest, -, rfl⟩ | ⟨rest, hin, -⟩
    · refine ⟨fun hst hnoStart => exec_keeps_result (s := { s with inputs := ins }) hexec hst ?_ ?_, fun hnone => ?_⟩
      · rintro rfl
        exact (hnoStart _).1 hfetch
      · rintro rfl
        exact (hnoStart _).2 hfetch
      · rcases exec_txRes hexec with heq | ⟨-, hsome⟩
        · exact heq.symm.trans hnone
        · exact absurd hnone hsome
    · refine ⟨fun hst _ => ?_, fun hnone => by simpa using hnone⟩
      have hinactive : s.rxSt.isActive = false := by rw [hst]; rfl
      rw [arrive_inactive (by exact hinactive)]
      exact ⟨hst, rfl, rfl⟩
    · exact absurd hin (hnoReset rest)

end Sys2Proof.Machine
end

section
/-! SUPPORT. Each unit has its own registers: an instruction reads and writes those of its unit, the constants apart,
and the bytes returned (R45, R74). -/

namespace Sys2Proof.Machine

/-- A state with the registers of one unit, its stream with them, taken from another state. -/
def graft (p : Part) (t u : State) : State :=
  match p with
  | .sum => { u with sum := t.sum }
  | .crc => { u with crc := t.crc }
  | .tx => { u with txRes := t.txRes, txs := t.txs }
  | .rx =>
    { u with
      rxVar := t.rxVar, rxSt := t.rxSt, rxRes := t.rxRes, rxCnt := t.rxCnt, rxDir := t.rxDir, rxB1 := t.rxB1,
      rxB2 := t.rxB2, rxLen := t.rxLen, rxSum := t.rxSum, rxCrc := t.rxCrc, rxChk := t.rxChk, rxPbuf := t.rxPbuf,
      rxs := t.rxs }

@[simp] theorem graft_self (p : Part) (s : State) : graft p s s = s := by
  cases p <;> rfl

@[simp] theorem graft_params (p : Part) (t u : State) : (graft p t u).params = u.params := by
  cases p <;> rfl

/-! The returned bytes are no unit's. -/

@[simp] theorem graft_reply_left (p : Part) (bs : List Byte) (t u : State) :
    graft p (reply bs t) u = graft p t u := by
  cases p <;> rfl

@[simp] theorem graft_reply_right (p : Part) (bs : List Byte) (t u : State) :
    graft p t (reply bs u) = reply bs (graft p t u) := by
  cases p <;> rfl

/-- Grafts of two units do not meet. -/
theorem graft_comm {p q : Part} (h : p ≠ q) (s t u : State) :
    graft p s (graft q t u) = graft q t (graft p s u) := by
  cases p <;> cases q
  case sum.sum | crc.crc | tx.tx | rx.rx => exact absurd rfl h
  all_goals rfl

/-- Another unit's graft is not seen. -/
theorem graft_graft_ne {p q : Part} (h : p ≠ q) (s t : State) : graft p (graft q t s) s = s := by
  cases p <;> cases q
  case sum.sum | crc.crc | tx.tx | rx.rx => exact absurd rfl h
  all_goals rfl

/-- The parser's graft is the parser's registers with the rest of the other state but RXS. -/
theorem graft_rx_eq {s u : State} (h : u.params = s.params) :
    graft .rx s u = inContext { u with rxs := s.rxs } s := by
  simp [graft, inContext, withRest, h]

theorem takeEvent_graft (e : RxEvent) {s u : State} (h : u.params = s.params) :
    takeEvent e (graft .rx s u) = graft .rx (takeEvent e s) u := by
  rw [graft_rx_eq h, graft_rx_eq (h.trans (takeEvent_params e s).symm), takeEvent_rxs]
  exact takeEvent_inContext e { u with rxs := s.rxs } s

/-- An arrival of nothing on an empty stream leaves it empty. -/
theorem arrive_nothing {bs : List Byte} {s : State} (h : s.rxs ++ bs.map .byte = []) :
    arrive bs s = { s with rxs := [] } := by
  simp [arrive, answerRead, h]

theorem arrive_graft (bs : List Byte) {s u : State} (h : u.params = s.params) :
    arrive bs (graft .rx s u) = graft .rx (arrive bs s) u := by
  cases ha : s.rxSt.isActive
  case false => rw [arrive_inactive (s := s) ha, arrive_inactive (s := graft .rx s u) ha]; rfl
  case true =>
    cases hes : s.rxs ++ bs.map .byte with
    | nil => rw [arrive_nothing (s := s) hes, arrive_nothing (s := graft .rx s u) hes]; rfl
    | cons e es =>
      rw [arrive_active (s := s) ha hes, arrive_active (s := graft .rx s u) ha hes]
      exact takeEvent_graft e (s := { s with rxs := es }) h

/-- An instruction does the same whatever the other units hold. -/
theorem exec_graft {i : Instr} {s t u : State} (h : exec i s = .next t) (hu : u.params = s.params) :
    exec i (graft (partOf i) s u) = .next (reply t.ret (graft (partOf i) t u)) := by
  cases i
  case sumInit | sumByte | sumRead | crcInit | crcByte | crcRead => cases h; rfl
  case txBuildA d b1 b2 p =>
    cases h
    rw [exec_txBuildA, build_eq, build_eq]
    simp [graft, partOf, hu, reply]
  case txBuildB d b1 b2 p =>
    cases h
    rw [exec_txBuildB, build_eq, build_eq]
    rfl
  case rxStartA | rxStartB =>
    obtain ⟨hinactive, rfl⟩ := start_eq_next.mp h
    exact start_eq_next.mpr ⟨hinactive, rfl⟩
  case rxByte | rxShort =>
    obtain ⟨hactive, ho, rfl⟩ := deliver_eq_next.mp h
    refine deliver_eq_next.mpr ⟨hactive, ho, ?_⟩
    exact (congrArg (reply []) (takeEvent_graft _ (s := consume s) hu)).symm
  case frameAD2H | frameAH2D | frameBD2H | frameBH2D =>
    cases h
    exact congrArg (fun v => Host.Outcome.next (reply [] v)) (arrive_graft _ hu)

/-- An instruction touches the registers of its unit and the returned bytes. -/
theorem eq_graft_of_exec {i : Instr} {s t : State} (h : exec i s = .next t) :
    t = reply t.ret (graft (partOf i) t s) := by
  have hgraft := exec_graft h rfl
  rw [graft_self, h] at hgraft
  exact Host.Outcome.next.inj hgraft

end Sys2Proof.Machine
end

section
/-! PROOFS. The units do not disturb each other (10_state.md section 8), and what a step runs (20_memory.md). -/

namespace Sys2Proof.Machine

/-- A sequence that answers a next state does so operation by operation. -/
theorem execAll_cons_eq_next {i : Instr} {is : List Instr} {s t : State} (h : execAll (i :: is) s = .next t) :
    ∃ u, exec i s = .next u ∧ execAll is u = .next t := by
  cases hi : exec i s with
  | next u => exact ⟨u, rfl, by simpa only [execAll, hi, andThen] using h⟩
  | fault r => simp [execAll, hi, andThen] at h
  | refused r => simp [execAll, hi, andThen] at h

/-- Settles O47: each instruction is a graft of its own unit, and grafts of two units commute. -/
theorem unitsDoNotDisturbEachOther : Obligations.UnitsDoNotDisturbEachOther := by
  intro i j s t hij h
  obtain ⟨u, hi, h'⟩ := execAll_cons_eq_next h
  obtain ⟨t', hj, ht'⟩ := execAll_cons_eq_next h'
  obtain rfl : t' = t := Host.Outcome.next.inj ht'
  have hu := eq_graft_of_exec hi
  have ht : t' = reply t'.ret (reply u.ret (graft (partOf j) t' (graft (partOf i) u s))) := by
    rw [← graft_reply_right, ← hu]
    exact eq_graft_of_exec hj
  have hj_s : exec j s = .next (reply t'.ret (graft (partOf j) t' s)) := by
    have hback : graft (partOf j) u s = s := by rw [hu, graft_reply_left, graft_graft_ne hij.symm]
    have hgraft := exec_graft hj (exec_params hi).symm
    rwa [hback] at hgraft
  have hi_after : exec i (reply t'.ret (graft (partOf j) t' s)) =
      .next (reply u.ret (reply t'.ret (graft (partOf j) t' (graft (partOf i) u s)))) := by
    have hgraft := exec_graft hi (u := reply t'.ret (graft (partOf j) t' s)) (graft_params _ _ _)
    rwa [graft_reply_right, graft_reply_right, graft_comm hij, graft_self, graft_comm hij] at hgraft
  refine ⟨_, by rw [execAll_cons_of_next hj_s, execAll_cons_of_next hi_after, execAll_nil], ?_⟩
  exact (congrArg (reply []) ht).symm

end Sys2Proof.Machine
end

section
/-! SUPPORT. A step by the input that stands first (R7, R71): which instruction it runs, and what arrives. -/

namespace Sys2Proof.Machine

theorem exec_instr (e : RxEvent) (s : State) : exec e.instr s = deliver e s := by
  cases e <;> rfl

theorem advance_eq (chunk : List Byte → Input) (tail : List Byte) (rest : List Input) :
    advance chunk tail rest = if tail = [] then rest else chunk tail :: rest := by
  cases tail <;> simp [advance]

/-- An arrival in an active parse is the delivery of the event that then stands first (R66). -/
theorem arrive_eq_exec_instr {bs : List Byte} {s : State} {e : RxEvent} {es : List RxEvent}
    (ha : s.rxSt.isActive = true) (he : s.rxs ++ bs.map .byte = e :: es) :
    .next (reply [] (arrive bs s)) = exec e.instr { s with rxs := e :: es } := by
  rw [exec_instr, deliver_of_offered (s := { s with rxs := e :: es }) ha (.inr rfl), arrive_active ha he]
  rfl

variable {s : State} {rest : List Input}

theorem step_of_command {bs tail : List Byte} {i : Instr} (h : s.inputs = .command bs :: rest)
    (hd : decodeCommand bs = .instr i tail) : step s = exec i { s with inputs := advance .command tail rest } := by
  simp [step, fetch, h, fetchCommand, hd]

theorem step_of_wire {bs tail : List Byte} {i : Instr} (h : s.inputs = .wire bs :: rest)
    (hd : decodeFrame bs = .instr i tail) : step s = exec i { s with inputs := advance .wire tail rest } := by
  simp [step, fetch, h, fetchWire, hd]

theorem step_of_noise {bs : List Byte} {r : Reject} (h : s.inputs = .wire bs :: rest)
    (hd : decodeFrame bs = .rejected r) : step s = .next (reply [] (arrive bs { s with inputs := rest })) := by
  simp [step, fetch, h, fetchWire, hd]

theorem step_of_turn {e : RxEvent} {es : List RxEvent} (h : s.inputs = .transport :: rest) (he : s.rxs = e :: es) :
    step s = exec e.instr { s with inputs := rest } := by
  simp [step, fetch, h, fetchTurn, he]

/-- With nothing issued an active parser pulls the first event (R66, R161). -/
theorem step_of_pull {e : RxEvent} {es : List RxEvent} (h : s.inputs = []) (ha : s.rxSt.isActive = true)
    (he : s.rxs = e :: es) : step s = exec e.instr s := by
  simp [step, fetch, h, fetchEvent, ha, he]

end Sys2Proof.Machine
end

section
/-! PROOFS. What a step runs (20_memory.md section 3, 00_scope.md section 5). -/

namespace Sys2Proof.Machine

/-- Settles O59, input by input. -/
theorem stepRunsTheDecodedInstruction : Obligations.StepRunsTheDecodedInstruction := by
  intro s
  refine ⟨?command, ?wire, ?noise, ?turn, ?silentTurn, ?pullByte, ?pullShort, ?silent, ?nothing⟩
  case command =>
    intro bs tail rest i h hd
    rw [step_of_command h hd, advance_eq]
  case wire =>
    intro bs tail rest i h hd
    rw [step_of_wire h hd, advance_eq]
  case noise =>
    intro bs rest r h hd
    rw [step_of_noise h hd]
    refine ⟨fun ha e es he => arrive_eq_exec_instr (s := { s with inputs := rest }) ha he, ?_⟩
    rintro (ha | hnil)
    · rw [arrive_inactive (s := { s with inputs := rest }) ha]
      rfl
    · rw [arrive_nothing (s := { s with inputs := rest }) hnil, hnil]
      rfl
  case turn => exact fun rest e es h he => step_of_turn h he
  case silentTurn =>
    intro rest h he
    cases ha : s.rxSt.isActive <;> simp [step, fetch, h, fetchTurn, he, ha]
  case pullByte => exact fun b es h ha he => step_of_pull h ha he
  case pullShort => exact fun es h ha he => step_of_pull h ha he
  case silent => exact fun h ha he => by simp [step, fetch, h, fetchEvent, ha, he]
  case nothing => exact fun h ha => by simp [step, fetch, h, fetchEvent, ha]

end Sys2Proof.Machine
end

section
/-! SUPPORT. Bytes taken one after another: the parser after them, and the operations and steps that take them (R71,
R96, R162). -/

namespace Sys2Proof.Machine

/-- The parser after the bytes of a sequence, first byte first; from where it reads no more, nothing changes (R161). -/
def feed (q : List Byte) (s : State) : State := q.foldl (fun t b => takeByte b t) s

/-- The parser reads every byte of a sequence: the parse is active when its turn comes. -/
def readsAll : List Byte → State → Prop
  | [], _ => True
  | b :: q, s => s.rxSt.isActive = true ∧ readsAll q (takeByte b s)

@[simp] theorem feed_nil (s : State) : feed [] s = s := rfl

@[simp] theorem feed_cons (b : Byte) (q : List Byte) (s : State) : feed (b :: q) s = feed q (takeByte b s) := rfl

theorem feed_append (p q : List Byte) (s : State) : feed (p ++ q) s = feed q (feed p s) := List.foldl_append

@[simp] theorem readsAll_nil (s : State) : readsAll [] s := trivial

@[simp] theorem readsAll_cons (b : Byte) (q : List Byte) (s : State) :
    readsAll (b :: q) s ↔ s.rxSt.isActive = true ∧ readsAll q (takeByte b s) := Iff.rfl

theorem readsAll_append (p q : List Byte) (s : State) :
    readsAll (p ++ q) s ↔ readsAll p s ∧ readsAll q (feed p s) := by
  induction p generalizing s with
  | nil => simp
  | cons b p ih => simp [ih, and_assoc]

theorem feed_of_inactive {s : State} (h : s.rxSt.isActive = false) (q : List Byte) : feed q s = s := by
  induction q with
  | nil => rfl
  | cons b q ih => rw [feed_cons, takeByte_of_inactive b h, ih]

/-- A parse still active after a sequence was active all along. -/
theorem readsAll_of_active {q : List Byte} {s : State} (h : (feed q s).rxSt.isActive = true) : readsAll q s := by
  induction q generalizing s with
  | nil => trivial
  | cons b q ih =>
    cases ha : s.rxSt.isActive
    case true => exact ⟨ha, ih h⟩
    case false =>
      rw [feed_of_inactive ha, ha] at h
      cases h

/-- A sequence's first bytes are read up to where the parse ends, or all of them are. -/
theorem exists_readsAll_take (q : List Byte) (s : State) :
    ∃ n, n ≤ q.length ∧ readsAll (q.take n) s ∧ (n < q.length → (feed (q.take n) s).rxSt.isActive = false) := by
  induction q generalizing s with
  | nil => exact ⟨0, by simp⟩
  | cons b q ih =>
    cases ha : s.rxSt.isActive
    case false => exact ⟨0, by simp [ha]⟩
    case true =>
      obtain ⟨n, hle, hreads, hend⟩ := ih (takeByte b s)
      exact ⟨n + 1, by simpa using hle, ⟨ha, hreads⟩, fun hlt => hend (by simpa using hlt)⟩

theorem feed_inContext (q : List Byte) (u s : State) : feed q (inContext u s) = inContext u (feed q s) := by
  induction q generalizing s with
  | nil => rfl
  | cons b q ih => rw [feed_cons, takeByte_inContext, ih, feed_cons]

/-- The bytes a parser takes change nothing outside it. -/
theorem feed_eq_inContext (q : List Byte) (s : State) : feed q s = inContext s (feed q s) :=
  feed_inContext q s s

theorem readsAll_inContext (q : List Byte) (u s : State) : readsAll q (inContext u s) ↔ readsAll q s := by
  induction q generalizing s with
  | nil => rfl
  | cons b q ih => rw [readsAll_cons, readsAll_cons, takeByte_inContext, ih]; rfl

@[simp] theorem takeByte_inputs (b : Byte) (s : State) : (takeByte b s).inputs = s.inputs := by
  rw [takeByte_eq_withRest]
  rfl

/-- A state with other events listed in RXS and other bytes returned. -/
def withStream (es : List RxEvent) (r : List Byte) (s : State) : State := { s with rxs := es, ret := r }

section WithStream

variable (es : List RxEvent) (r : List Byte) (s : State)

@[simp] theorem withStream_rxSt : (withStream es r s).rxSt = s.rxSt := rfl
@[simp] theorem withStream_rxRes : (withStream es r s).rxRes = s.rxRes := rfl
@[simp] theorem withStream_inputs : (withStream es r s).inputs = s.inputs := rfl
@[simp] theorem withStream_rxs : (withStream es r s).rxs = es := rfl
@[simp] theorem withStream_ret : (withStream es r s).ret = r := rfl
@[simp] theorem withStream_self : withStream s.rxs s.ret s = s := rfl

@[simp] theorem withStream_withStream (es' : List RxEvent) (r' : List Byte) :
    withStream es r (withStream es' r' s) = withStream es r s := rfl

/-- What stands in RXS and was returned changes nothing of how bytes are taken. -/
@[simp] theorem feed_withStream (q : List Byte) : feed q (withStream es r s) = withStream es r (feed q s) := by
  rw [feed_eq_inContext q s]
  exact feed_inContext q (withStream es r s) s

@[simp] theorem readsAll_withStream (q : List Byte) : readsAll q (withStream es r s) ↔ readsAll q s :=
  readsAll_inContext q (withStream es r s) s

end WithStream

theorem exec_rxByte_eq_withStream {s : State} (b : Byte) (h : s.rxSt.isActive = true) (ho : Offered (.byte b) s) :
    exec (.rxByte b) s = .next (withStream s.rxs.tail [] (takeByte b s)) := exec_rxByte_of_offered b h ho

/-! ## As operations -/

/-- Bytes the transport delivers: they stand first in RXS, or nothing is listed (notes/assumptions/2.md). -/
def Delivered (q : List Byte) (es : List RxEvent) : Prop := es = [] ∨ q.map .byte <+: es

theorem offered_of_delivered {b : Byte} {q : List Byte} {s : State} (h : Delivered (b :: q) s.rxs) :
    Offered (.byte b) s := by
  rcases h with h | ⟨es, h⟩
  · exact .inl h
  · exact .inr (by simp [← h])

theorem delivered_tail {b : Byte} {q : List Byte} {es : List RxEvent} (h : Delivered (b :: q) es) :
    Delivered q es.tail := by
  rcases h with rfl | ⟨es, rfl⟩
  · exact .inl rfl
  · exact .inr ⟨es, rfl⟩

/-- RX.BYTE of delivered bytes, all of them read. -/
theorem execAll_rxBytes {q : List Byte} {s : State} (hreads : readsAll q s) (hdel : Delivered q s.rxs) :
    execAll (q.map .rxByte) s =
      .next (withStream (s.rxs.drop q.length) (if q = [] then s.ret else []) (feed q s)) := by
  induction q generalizing s with
  | nil => simp
  | cons b q ih =>
    obtain ⟨hactive, hreads⟩ := hreads
    have hexec := exec_rxByte_eq_withStream b hactive (offered_of_delivered hdel)
    rw [List.map_cons, execAll_cons_of_next hexec, ih (by simpa using hreads) (delivered_tail hdel)]
    simp

/-- The part of a whole buffer that is read (R96). -/
theorem takeAll_append {q : List Byte} {s : State} (hreads : readsAll q s) (r : List Byte)
    (hrxs : s.rxs = (q ++ r).map .byte) (hret : s.ret = []) :
    takeAll (q ++ r) s = takeAll r (withStream (r.map .byte) [] (feed q s)) := by
  induction q generalizing s with
  | nil =>
    rw [List.nil_append] at hrxs ⊢
    rw [feed_nil, ← hrxs, ← hret, withStream_self]
  | cons b q ih =>
    obtain ⟨hactive, hreads⟩ := hreads
    have hexec := exec_rxByte_eq_withStream b hactive (.inr (by simp [hrxs]))
    rw [List.cons_append, takeAll, if_pos hactive, hexec]
    simp only [andThen]
    rw [ih (by simpa using hreads) (by simp [hrxs]) rfl]
    simp

/-! ## As steps -/

/-- A run goes on from the next state of its first step. -/
theorem run_succ_of_next {s t : State} (h : step s = .next t) (n : Nat) :
    Host.Core.run core (n + 1) s = Host.Core.run core n t := by
  have hstep : core.step s = .next t := h
  simp only [Host.Core.run, hstep]

/-- With nothing issued a run takes the bytes that stand first in RXS, a byte a step. -/
theorem run_pulls {q : List Byte} {s : State} (hreads : readsAll q s) (hin : s.inputs = [])
    (hrxs : q.map .byte <+: s.rxs) : Host.Core.run core q.length s = execAll (q.map .rxByte) s := by
  induction q generalizing s with
  | nil => rfl
  | cons b q ih =>
    obtain ⟨hactive, hreads⟩ := hreads
    obtain ⟨es, hes⟩ := hrxs
    have hexec := exec_rxByte_eq_withStream b hactive (.inr (by simp [← hes]))
    have hstep := (step_of_pull hin hactive hes.symm).trans hexec
    rw [List.length_cons, run_succ_of_next hstep, List.map_cons, execAll_cons_of_next hexec]
    exact ih (by simpa using hreads) (by simpa using hin) ⟨es, by simp [← hes]⟩

end Sys2Proof.Machine
end

section
/-! SUPPORT. A frame's bytes taken stage by stage: noise, header, payload, trailer (R163 to R170). -/

namespace Sys2Proof.Machine

/-- The trailer bytes of a variant (R80, R81). -/
def trailerLength : Variant → Nat
  | .a => 1
  | .b => 2

/-- The bytes after the marker end before the trailer does: the third of them is the length. -/
def CutShort (v : Variant) (q : List Byte) : Prop := q.length < 3 + (q.getD 2 0).toNat + trailerLength v

/-- A variant A scan keeps no trace of bytes other than its marker (R163). -/
theorem feed_noise {s : State} (hst : s.rxSt = .awaitMarker) (hv : s.rxVar = .a) {q : List Byte} (hq : 0xF0#8 ∉ q) :
    readsAll q s ∧ feed q s = s := by
  induction q with
  | nil => exact ⟨trivial, rfl⟩
  | cons b q ih =>
    obtain ⟨hb, hq⟩ := List.ne_and_not_mem_of_not_mem_cons hq
    have htake := takeByte_noise hst hv hb.symm
    rw [readsAll_cons, feed_cons, htake]
    exact ⟨⟨by rw [hst]; rfl, (ih hq).1⟩, (ih hq).2⟩

/-- Fewer header bytes than are due leave the parse in HEADER. -/
theorem feed_header_short {q : List Byte} {s : State} (hst : s.rxSt = .header) (hq : s.rxCnt.toNat + q.length ≤ 2) :
    (feed q s).rxSt = .header := by
  induction q generalizing s with
  | nil => exact hst
  | cons b q ih =>
    rw [List.length_cons] at hq
    have hn : s.rxCnt.toNat < 2 := by omega
    rw [feed_cons, takeByte_header b hst]
    refine ih ?_ ?_
    · rw [takeHeader_rxSt, if_pos hn, hst]
    · rw [takeHeader_rxCnt, if_pos hn]
      bv_omega

/-- Fewer payload bytes than are due leave the parse in PAYLOAD. -/
theorem feed_payload_short {q : List Byte} {s : State} (hst : s.rxSt = .payload)
    (hq : s.rxCnt.toNat + q.length < s.rxLen.toNat) : (feed q s).rxSt = .payload := by
  induction q generalizing s with
  | nil => exact hst
  | cons b q ih =>
    rw [List.length_cons] at hq
    have hend : ¬ s.rxCnt.toNat + 1 = s.rxLen.toNat := by omega
    rw [feed_cons, takeByte_payload b hst]
    refine ih ?_ ?_
    · rw [takePayload_rxSt, if_neg hend, hst]
    · rw [takePayload_rxCnt, if_neg hend, takePayload_rxLen]
      bv_omega

/-- The parser after a whole header: the latches, and the accumulator of the variant (R164). -/
theorem feed_header {s : State} (hst : s.rxSt = .header) (hc : s.rxCnt = 0#8) (b1 b2 len : Byte) :
    feed [b1, b2, len] s =
      { s with
        rxB1 := b1, rxB2 := b2, rxLen := len
        rxCrc := if s.rxVar = .b then crcFrom s.rxCrc [b1, b2, len] else s.rxCrc
        rxSum := if s.rxVar = .a then s.rxSum + sumBytes [tagOf s.params.aTagPos b1 b2, len] else s.rxSum
        rxSt := if len = 0x00#8 then .trailer else .payload } := by
  cases hv : s.rxVar <;> cases hp : s.params.aTagPos <;>
    simp [takeByte, hst, takeHeader_eq, hc, hv, hp, tagOf, tagCount, BitVec.add_assoc]

/-- The parser after all payload bytes that are due (R166). -/
theorem feed_payload {p pre : List Byte} {s : State} (hst : s.rxSt = .payload) (hp : p ≠ [])
    (hlen : s.rxCnt.toNat + p.length = s.rxLen.toNat)
    (hread : Memory.readFirst s.rxPbuf s.rxCnt.toNat = some pre) :
    ∃ m, Memory.readFirst m s.rxLen.toNat = some (pre ++ p) ∧
      feed p s =
        { s with
          rxPbuf := m
          rxCrc := if s.rxVar = .b then crcFrom s.rxCrc p else s.rxCrc
          rxSum := if s.rxVar = .a then s.rxSum + sumBytes p else s.rxSum
          rxCnt := 0#8
          rxSt := .trailer } := by
  induction p generalizing s pre with
  | nil => exact absurd rfl hp
  | cons b p ih =>
    rw [List.length_cons] at hlen
    have hread' := readFirst_write_next b hread
    rw [feed_cons, takeByte_payload b hst]
    cases p with
    | nil =>
      rw [List.length_nil, Nat.zero_add] at hlen
      refine ⟨_, hlen ▸ hread', ?_⟩
      rw [feed_nil, takePayload_eq]
      simp [hlen]
    | cons b' p =>
      have hend : ¬ s.rxCnt.toNat + 1 = s.rxLen.toNat := by rw [List.length_cons] at hlen; omega
      have hcnt : (takePayload b s).rxCnt.toNat = s.rxCnt.toNat + 1 := by
        rw [takePayload_rxCnt, if_neg hend]
        bv_omega
      obtain ⟨m, hm, hfeed⟩ := ih (s := takePayload b s) (pre := pre ++ [b])
        (by rw [takePayload_rxSt, if_neg hend, hst]) (by simp)
        (by rw [hcnt, takePayload_rxLen]; omega) (by rw [hcnt, takePayload_rxPbuf]; exact hread')
      refine ⟨m, by simpa using hm, hfeed.trans ?_⟩
      rw [takePayload_eq]
      cases hv : s.rxVar <;> simp [BitVec.add_assoc]

/-- The parser after header and payload: the trailer is due, and the accumulator of the variant holds the checksum. -/
theorem feed_body {s : State} (hst : s.rxSt = .header) (hc : s.rxCnt = 0#8) (b1 b2 : Byte) {len : Byte} {p : List Byte}
    (hp : p.length = len.toNat) :
    ∃ m, Memory.readFirst m len.toNat = some p ∧
      feed (b1 :: b2 :: len :: p) s =
        { s with
          rxB1 := b1, rxB2 := b2, rxLen := len, rxPbuf := m
          rxCrc := if s.rxVar = .b then crcFrom s.rxCrc (b1 :: b2 :: len :: p) else s.rxCrc
          rxSum :=
            if s.rxVar = .a then s.rxSum + sumBytes ([tagOf s.params.aTagPos b1 b2, len] ++ p) else s.rxSum
          rxSt := .trailer } := by
  have hheader := feed_header hst hc b1 b2 len
  rw [show b1 :: b2 :: len :: p = [b1, b2, len] ++ p from rfl, feed_append, hheader]
  by_cases hlen : len = 0x00#8
  case pos =>
    obtain rfl : p = [] := List.eq_nil_of_length_eq_zero (by simp [hp, hlen])
    exact ⟨s.rxPbuf, by rw [hlen]; rfl, by simp [hlen]⟩
  case neg =>
    have hne : p ≠ [] := by
      rintro rfl
      exact hlen (BitVec.eq_of_toNat_eq hp.symm)
    rw [if_neg hlen]
    obtain ⟨m, hm, hfeed⟩ := feed_payload (pre := []) (s := { s with
        rxB1 := b1, rxB2 := b2, rxLen := len
        rxCrc := if s.rxVar = .b then crcFrom s.rxCrc [b1, b2, len] else s.rxCrc
        rxSum := if s.rxVar = .a then s.rxSum + sumBytes [tagOf s.params.aTagPos b1 b2, len] else s.rxSum
        rxSt := .payload }) rfl hne (by simp [hc, hp]) (by simp [hc, Memory.readFirst])
    refine ⟨m, by simpa using hm, hfeed.trans ?_⟩
    cases hv : s.rxVar <;> simp [hc, BitVec.add_assoc]

/-- The trailer as received: one byte, or two with the low one first (R80, R85). -/
def trailerHalf (v : Variant) (tr : List Byte) : Half :=
  match v with
  | .a => (tr.getD 0 0).setWidth 16
  | .b => joinHalf (tr.getD 1 0) (tr.getD 0 0)

/-- What the trailer is compared with (R167, R168). -/
def expected (s : State) : Half :=
  match s.rxVar with
  | .a => s.rxSum.setWidth 16
  | .b => s.rxCrc

/-- The result of the comparison, and of the catalog where the checksum matched (R170). -/
def verdict (received checksum : Half) (known : Bool) : RxRes :=
  if received ≠ checksum then .checksumMismatch else if known = true then .ok else .unknownTag

/-- The parser after the trailer. -/
theorem feed_trailer {s : State} (hst : s.rxSt = .trailer) (hc : s.rxCnt = 0#8) {tr : List Byte}
    (htr : tr.length = trailerLength s.rxVar) :
    readsAll tr s ∧ ∃ n, feed tr s =
      { s with
        rxChk := trailerHalf s.rxVar tr, rxCnt := n, rxSt := .done
        rxRes := verdict (trailerHalf s.rxVar tr) (expected s) (tagIsKnown s) } := by
  have hactive : s.rxSt.isActive = true := by rw [hst]; rfl
  cases hv : s.rxVar <;> rw [hv] at htr
  case a =>
    obtain ⟨c, rfl⟩ := List.length_eq_one_iff.mp htr
    have hsum : c.setWidth 16 = s.rxSum.setWidth 16 ↔ c = s.rxSum := setWidth16_injective.eq_iff
    refine ⟨⟨hactive, trivial⟩, s.rxCnt, ?_⟩
    rw [feed_cons, takeByte_trailerA c hst hv, takeTrailerA_eq c s hv, feed_nil]
    simp [verdict, trailerHalf, expected, tagIsKnown, hv, hsum]
  case b =>
    obtain ⟨l, h, rfl⟩ := List.length_eq_two.mp htr
    have htake := takeByte_trailerB l hst hv
    rw [takeTrailerB_low l s hc] at htake
    refine ⟨⟨hactive, by rw [htake]; exact ⟨hactive, trivial⟩⟩, 1#8, ?_⟩
    rw [feed_cons, htake, feed_cons, takeByte_trailerB (s := { s with rxChk := joinHalf (hi s.rxChk) l, rxCnt := 1#8 })
      h hst hv, takeTrailerB_high h { s with rxChk := joinHalf (hi s.rxChk) l, rxCnt := 1#8 } hv (by simp), feed_nil]
    simp [verdict, trailerHalf, expected, tagIsKnown, hv]

/-- Fewer trailer bytes than are due leave the parse in TRAILER. -/
theorem feed_trailer_short {s : State} (hst : s.rxSt = .trailer) (hc : s.rxCnt = 0#8) {tr : List Byte}
    (htr : tr.length < trailerLength s.rxVar) : (feed tr s).rxSt = .trailer := by
  cases tr with
  | nil => exact hst
  | cons b tr =>
    cases hv : s.rxVar <;> rw [hv, trailerLength, List.length_cons] at htr
    case a => omega
    case b =>
      obtain rfl : tr = [] := List.eq_nil_of_length_eq_zero (by omega)
      rw [feed_cons, takeByte_trailerB b hst hv, takeTrailerB_low b s hc, feed_nil]
      exact hst

/-- The bytes after the marker are a frame's, with any bytes behind them, or are cut short. -/
theorem cutShort_or_frame (v : Variant) (q : List Byte) :
    CutShort v q ∨ ∃ b1 b2 len p tr rest, q = b1 :: b2 :: len :: (p ++ tr) ++ rest ∧ p.length = len.toNat ∧
      tr.length = trailerLength v := by
  match q with
  | [] | [_] | [_, _] => exact .inl (by cases v <;> simp [CutShort, trailerLength])
  | b1 :: b2 :: len :: q =>
    by_cases h : q.length < len.toNat + trailerLength v
    · exact .inl (by simp [CutShort]; omega)
    · refine .inr ⟨b1, b2, len, q.take len.toNat, (q.drop len.toNat).take (trailerLength v),
        (q.drop len.toNat).drop (trailerLength v), ?_, ?_, ?_⟩
      · simp
      · simp; omega
      · simp; omega

/-- Bytes that are cut short leave the parse active. -/
theorem feed_cutShort {s : State} (hst : s.rxSt = .header) (hc : s.rxCnt = 0#8) {q : List Byte}
    (hq : CutShort s.rxVar q) : (feed q s).rxSt.isActive = true := by
  match q with
  | [] | [_] | [_, _] => rw [feed_header_short hst (by simp [hc])]; rfl
  | b1 :: b2 :: len :: q =>
    have hq' : q.length < len.toNat + trailerLength s.rxVar := by
      simp [CutShort] at hq
      omega
    by_cases hlen : q.length < len.toNat
    case pos =>
      have hne : len ≠ 0x00#8 := by rintro rfl; exact absurd hlen (Nat.not_lt_zero _)
      have hpay := feed_header hst hc b1 b2 len
      rw [if_neg hne] at hpay
      rw [show b1 :: b2 :: len :: q = [b1, b2, len] ++ q from rfl, feed_append, hpay,
        feed_payload_short rfl (by simpa [hc] using hlen)]
      rfl
    case neg =>
      have hp : (q.take len.toNat).length = len.toNat := by simp; omega
      obtain ⟨m, -, hbody⟩ := feed_body hst hc b1 b2 hp
      have hsplit : b1 :: b2 :: len :: q = (b1 :: b2 :: len :: q.take len.toNat) ++ q.drop len.toNat := by simp
      have hst' : (feed (b1 :: b2 :: len :: q.take len.toNat) s).rxSt = .trailer := by rw [hbody]
      have hc' : (feed (b1 :: b2 :: len :: q.take len.toNat) s).rxCnt = 0#8 := by rw [hbody]; exact hc
      have hv' : (feed (b1 :: b2 :: len :: q.take len.toNat) s).rxVar = s.rxVar := by rw [hbody]
      rw [hsplit, feed_append, feed_trailer_short hst' hc' (by rw [hv', List.length_drop]; omega)]
      rfl

/-! ## From the start of a parse -/

theorem startParse_marker (v : Variant) (s : State) :
    takeByte (acceptedMarker v) (startParse v s) =
      { startParse v s with
        rxDir := acceptedMarker v, rxSt := .header
        rxCrc := if v = .b then crcUpdate crcInitValue (acceptedMarker v) else crcInitValue } :=
  takeByte_marker rfl rfl rfl

/-- The checksum of a device-to-host frame of a variant (R86, R88, R89). -/
def frameChecksum (v : Variant) (params : Params) (b1 b2 len : Byte) (p : List Byte) : Half :=
  match v with
  | .a => (sum8 (tagOf params.aTagPos b1 b2) p).setWidth 16
  | .b => crc16 ([acceptedMarker .b, b1, b2, len] ++ p)

/-- The catalog's answer for the tag of a frame of a variant (R91). -/
def frameKnown (v : Variant) (params : Params) (b1 b2 : Byte) : Bool :=
  match v with
  | .a => knownA params (tagOf params.aTagPos b1 b2)
  | .b => knownB params b1

/-- A whole device-to-host frame taken from the start of a parse: every byte is read, and its trailer decides (R167 to
R170). -/
theorem feed_frame (v : Variant) (s : State) (b1 b2 : Byte) {len : Byte} {p tr : List Byte} (hp : p.length = len.toNat)
    (htr : tr.length = trailerLength v) :
    readsAll (acceptedMarker v :: b1 :: b2 :: len :: (p ++ tr)) (startParse v s) ∧
    ∃ m n, Memory.readFirst m len.toNat = some p ∧
      feed (acceptedMarker v :: b1 :: b2 :: len :: (p ++ tr)) (startParse v s) =
        { s with
          rxVar := v, rxSt := .done, rxCnt := n, rxDir := acceptedMarker v, rxB1 := b1, rxB2 := b2, rxLen := len
          rxSum := if v = .a then sum8 (tagOf s.params.aTagPos b1 b2) p else 0x00#8
          rxCrc := if v = .b then frameChecksum .b s.params b1 b2 len p else crcInitValue
          rxChk := trailerHalf v tr, rxPbuf := m
          rxRes :=
            verdict (trailerHalf v tr) (frameChecksum v s.params b1 b2 len p) (frameKnown v s.params b1 b2) } := by
  have hmarker := startParse_marker v s
  obtain ⟨m, hm, hbody⟩ := feed_body (s := takeByte (acceptedMarker v) (startParse v s)) (by rw [hmarker])
    (by rw [hmarker]; rfl) b1 b2 hp
  have hreads : readsAll (acceptedMarker v :: b1 :: b2 :: len :: p) (startParse v s) := by
    refine readsAll_of_active ?_
    rw [feed_cons, hbody]
    rfl
  have hu : feed (acceptedMarker v :: b1 :: b2 :: len :: p) (startParse v s) =
      { startParse v s with
        rxDir := acceptedMarker v, rxSt := .trailer, rxB1 := b1, rxB2 := b2, rxLen := len, rxPbuf := m
        rxSum := if v = .a then sum8 (tagOf s.params.aTagPos b1 b2) p else 0x00#8
        rxCrc := if v = .b then frameChecksum .b s.params b1 b2 len p else crcInitValue } := by
    rw [feed_cons, hbody, hmarker, sumBytes_covered hp]
    cases v <;> simp [startParse, frameChecksum, crc16]
  obtain ⟨htrailer, n, hfeed⟩ := feed_trailer
    (s := feed (acceptedMarker v :: b1 :: b2 :: len :: p) (startParse v s)) (by rw [hu]) (by rw [hu]; rfl)
    (tr := tr) (by rw [hu]; exact htr)
  have hsplit : acceptedMarker v :: b1 :: b2 :: len :: (p ++ tr) =
    (acceptedMarker v :: b1 :: b2 :: len :: p) ++ tr := rfl
  rw [hsplit]
  refine ⟨(readsAll_append _ _ _).mpr ⟨hreads, htrailer⟩, m, n, hm, ?_⟩
  rw [feed_append, hfeed, hu]
  cases v <;> rfl

end Sys2Proof.Machine
end

section
/-! SUPPORT. The parse of a whole buffer (R96), in closed form (R171, R172): the buffer that ends inside a frame, the
whole frame with any bytes around it, and the closed forms' own equations on the same buffers. -/

namespace Sys2Proof.Machine

/-- What a parse of a buffer gives, and that it touches nothing outside the parser. -/
def ParseGives (v : Variant) (q : List Byte) (s : State) (r : ParseResult) : Prop :=
  ∃ t, parse v q s = .next t ∧ t.rxSt = .done ∧ t.rxRes = r.res ∧ t.rxs = (q.drop r.consumed).map .byte ∧
    frameRecord t = r.record ∧ t.sum = s.sum ∧ t.crc = s.crc ∧ t.txRes = s.txRes ∧ t.txs = s.txs ∧ t.params = s.params

/-- The bytes a parse of a variant discards while it waits for the marker: none in variant B (R163). -/
def Noise (v : Variant) (q : List Byte) : Prop :=
  match v with
  | .a => 0xF0#8 ∉ q
  | .b => q = []

theorem feed_startParse_noise {v : Variant} {q : List Byte} (h : Noise v q) (s : State) :
    readsAll q (startParse v s) ∧ feed q (startParse v s) = startParse v s := by
  cases v
  case a => exact feed_noise rfl rfl h
  case b => obtain rfl : q = [] := h; exact ⟨trivial, rfl⟩

/-! ## The parse -/

section Parse

variable {v : Variant} {s : State}

theorem takeAll_of_inactive {s : State} (h : s.rxSt.isActive = false) (q : List Byte) : takeAll q s = .next s := by
  cases q <;> simp [takeAll, h]

theorem exec_startInstr (v : Variant) {s : State} (h : s.rxSt.isActive = false) :
    exec (startInstr v) s = .next (reply [] (startParse v s)) := by
  cases v <;> exact start_eq_next.mpr ⟨h, rfl⟩

theorem parse_eq (h : s.rxSt.isActive = false) (q : List Byte) :
    parse v q s = takeAll q (withStream (q.map .byte) [] (startParse v s)) := by
  rw [parse, exec_startInstr (s := { s with rxs := q.map .byte }) v h]
  rfl

/-- The end of the buffer is a short read (R96). -/
theorem parse_of_active (h : s.rxSt.isActive = false) {q : List Byte}
    (hactive : (feed q (startParse v s)).rxSt.isActive = true) :
    parse v q s = .next (withStream [] [] (raiseRx .truncated (feed q (startParse v s)))) := by
  have happ := takeAll_append (s := withStream (q.map .byte) [] (startParse v s)) (q := q)
    (by simpa using readsAll_of_active hactive) [] (by simp) rfl
  rw [List.append_nil] at happ
  rw [parse_eq h, happ, feed_withStream, withStream_withStream, takeAll, if_pos (by exact hactive)]
  exact exec_rxShort_of_offered (s := withStream [] [] (feed q (startParse v s))) hactive (.inl rfl)

/-- Where the parse ends inside the buffer the other bytes stay in RXS (R175). -/
theorem parse_of_inactive (h : s.rxSt.isActive = false) {q : List Byte} (hreads : readsAll q (startParse v s))
    (hend : (feed q (startParse v s)).rxSt.isActive = false) (r : List Byte) :
    parse v (q ++ r) s = .next (withStream (r.map .byte) [] (feed q (startParse v s))) := by
  rw [parse_eq h, takeAll_append (by simpa using hreads) r rfl rfl, takeAll_of_inactive (by simpa using hend)]
  simp

theorem standing_feed (q : List Byte) (s : State) : standing (feed q s) = standing s := by
  induction q generalizing s with
  | nil => rfl
  | cons b q ih => rw [feed_cons, ih, standing_takeByte]

/-- Where the parser has taken bytes from the start of a parse only, nothing outside it is touched. -/
theorem parseGives_of_next {q : List Byte} {es : List RxEvent} {r : ParseResult} {u : State}
    (h : parse v q s = .next (withStream es [] u)) (hu : standing u = standing (startParse v s)) (hst : u.rxSt = .done)
    (hres : u.rxRes = r.res) (hes : es = (q.drop r.consumed).map .byte) (hrec : frameRecord u = r.record) :
    ParseGives v q s r := by
  simp only [standing, Prod.mk.injEq] at hu
  obtain ⟨hsum, hcrc, -, htxRes, -, htxs, hparams, -⟩ := hu
  exact ⟨_, h, hst, hres, hes, hrec, hsum, hcrc, htxRes, htxs, hparams⟩

/-- A buffer that ends while the parse is active (R169, R179). -/
theorem parseGives_truncated (h : s.rxSt.isActive = false) {q : List Byte}
    (hactive : (feed q (startParse v s)).rxSt.isActive = true) : ParseGives v q s ⟨.truncated, q.length, none⟩ := by
  refine parseGives_of_next (parse_of_active h hactive) ?_ rfl rfl (by simp) ?_
  · rw [standing_raiseRx, standing_feed]
  · exact frameRecord_of_not_valid (by simp)

/-- Nothing but noise. -/
theorem parseGives_noise (h : s.rxSt.isActive = false) {noise : List Byte} (hn : Noise v noise) :
    ParseGives v noise s ⟨.truncated, noise.length, none⟩ := by
  refine parseGives_truncated h ?_
  rw [(feed_startParse_noise hn s).2]
  rfl

/-- The first byte of a variant B buffer is not the marker (R163). -/
theorem parse_wrongDirection (h : s.rxSt.isActive = false) {b : Byte} (hb : b ≠ acceptedMarker .b)
    (q : List Byte) :
    parse .b (b :: q) s =
      .next (withStream (q.map .byte) [] (raiseRx .wrongDirection { startParse .b s with rxDir := b })) := by
  have htake := takeByte_wrongDirection (startParse_rxSt .b s) (startParse_rxVar .b s) hb
  have hparse := parse_of_inactive (v := .b) h (q := [b]) ⟨rfl, trivial⟩ (by rw [feed_cons, htake]; rfl) q
  rwa [feed_cons, htake] at hparse

theorem parseGives_wrongDirection (h : s.rxSt.isActive = false) {b : Byte} (hb : b ≠ acceptedMarker .b)
    (q : List Byte) : ParseGives .b (b :: q) s ⟨.wrongDirection, 1, none⟩ :=
  parseGives_of_next (parse_wrongDirection h hb q) rfl rfl rfl rfl (frameRecord_of_not_valid (by simp))

/-- A buffer that ends after the marker but inside the frame. -/
theorem parseGives_cutShort (h : s.rxSt.isActive = false) {noise q : List Byte} (hn : Noise v noise)
    (hq : CutShort v q) :
    ParseGives v (noise ++ acceptedMarker v :: q) s ⟨.truncated, noise.length + 1 + q.length, none⟩ := by
  have hmarker := startParse_marker v s
  have hgives := parseGives_truncated (v := v) h (q := noise ++ acceptedMarker v :: q) ?_
  · simpa [Nat.add_assoc, Nat.add_comm 1] using hgives
  · rw [feed_append, (feed_startParse_noise hn s).2, feed_cons]
    exact feed_cutShort (by rw [hmarker]) (by rw [hmarker]; rfl) (by rw [hmarker]; exact hq)

/-- A valid frame is one whose trailer is its checksum. -/
theorem verdict_valid_iff {c d : Half} {known : Bool} :
    verdict c d known = .ok ∨ verdict c d known = .unknownTag ↔ c = d := by
  unfold verdict
  by_cases h : c = d <;> cases known <;> simp [h]

theorem verdict_of_eq {c d : Half} (h : c = d) (known : Bool) :
    verdict c d known = if known = true then .ok else .unknownTag := if_neg (not_not.mpr h)

theorem verdict_of_ne {c d : Half} (h : c ≠ d) (known : Bool) : verdict c d known = .checksumMismatch := if_pos h

/-- The record of a whole frame, where its trailer is its checksum (R42). -/
def recordOf (v : Variant) (params : Params) (b1 b2 len : Byte) (p : List Byte) (received : Half) :
    Option FrameRecord :=
  if received ≠ frameChecksum v params b1 b2 len p then none
  else some ⟨acceptedMarker v, b1, b2, len, p, received⟩

section RecordOf

variable {params : Params} {b1 b2 len : Byte} {p : List Byte} {c : Half}

theorem recordOf_of_eq (h : c = frameChecksum v params b1 b2 len p) :
    recordOf v params b1 b2 len p c = some ⟨acceptedMarker v, b1, b2, len, p, c⟩ := if_neg (not_not.mpr h)

theorem recordOf_of_ne (h : c ≠ frameChecksum v params b1 b2 len p) : recordOf v params b1 b2 len p c = none := if_pos h

end RecordOf

/-- A whole frame, noise before it and any bytes behind it (R171, R172, R175). -/
theorem parseGives_frame (h : s.rxSt.isActive = false) {noise : List Byte} (hn : Noise v noise) (b1 b2 : Byte)
    {len : Byte} {p tr : List Byte} (hp : p.length = len.toNat) (htr : tr.length = trailerLength v) (rest : List Byte) :
    ParseGives v (noise ++ acceptedMarker v :: b1 :: b2 :: len :: (p ++ tr) ++ rest) s
      ⟨verdict (trailerHalf v tr) (frameChecksum v s.params b1 b2 len p) (frameKnown v s.params b1 b2),
        noise.length + 4 + len.toNat + trailerLength v, recordOf v s.params b1 b2 len p (trailerHalf v tr)⟩ := by
  obtain ⟨hnoise, hstay⟩ := feed_startParse_noise hn s
  obtain ⟨hreads, m, n, hm, hfeed⟩ := feed_frame v s b1 b2 hp htr
  have hparse := parse_of_inactive (v := v) h (q := noise ++ acceptedMarker v :: b1 :: b2 :: len :: (p ++ tr))
    ((readsAll_append _ _ _).mpr ⟨hnoise, by rw [hstay]; exact hreads⟩) (by rw [feed_append, hstay, hfeed]; rfl) rest
  refine parseGives_of_next hparse (standing_feed _ _) ?_ ?_ ?_ ?_
  · rw [feed_append, hstay, hfeed]
  · rw [feed_append, hstay, hfeed]
  · have hlen : (noise ++ acceptedMarker v :: b1 :: b2 :: len :: (p ++ tr)).length =
        noise.length + 4 + len.toNat + trailerLength v := by
      simp [hp, htr]
      omega
    rw [← hlen, List.drop_left]
  · rw [feed_append, hstay, hfeed]
    by_cases heq : trailerHalf v tr = frameChecksum v s.params b1 b2 len p
    case pos =>
      rw [recordOf_of_eq heq]
      exact frameRecord_of_valid (rxFrameValid_iff.mpr ⟨rfl, verdict_valid_iff.mpr heq⟩) hm
    case neg =>
      rw [recordOf_of_ne heq]
      exact frameRecord_of_not_valid fun hvalid => heq (verdict_valid_iff.mp (rxFrameValid_iff.mp hvalid).2)

end Parse

/-! ## The closed forms -/

/-- The bytes of a frame by their offsets: what stands behind the payload, the covered bytes of variant B, and the
payload (R80, R81). -/
theorem getD_frame (d b1 b2 len : Byte) (p r : List Byte) (i : Nat) :
    (d :: b1 :: b2 :: len :: (p ++ r)).getD (4 + p.length + i) 0 = r.getD i 0 := by
  rw [show 4 + p.length + i = (p.length + i) + 4 by omega]
  simp [List.getD_eq_getElem?_getD, List.getElem?_append_right]

theorem take_frame (d b1 b2 len : Byte) (p r : List Byte) :
    (d :: b1 :: b2 :: len :: (p ++ r)).take (4 + p.length) = [d, b1, b2, len] ++ p := by
  rw [Nat.add_comm 4]
  simp

theorem take_drop_frame (d b1 b2 len : Byte) (p r : List Byte) :
    ((d :: b1 :: b2 :: len :: (p ++ r)).drop 4).take p.length = p := by
  simp

theorem closedB_cutShort (params : Params) {q : List Byte} (hq : CutShort .b q) :
    closedB params (acceptedMarker .b :: q) = ⟨.truncated, 1 + q.length, none⟩ := by
  have hlen : q.length + 1 = 1 + q.length := Nat.add_comm _ _
  unfold closedB
  dsimp only
  rw [if_neg (by simp [acceptedMarker, markerB])]
  by_cases h4 : (acceptedMarker .b :: q).length < 4
  · rw [if_pos h4, List.length_cons, hlen]
  · have h6 : (acceptedMarker .b :: q).length < 6 + ((acceptedMarker .b :: q).getD 3 0).toNat := by
      simp [CutShort, trailerLength] at hq ⊢
      omega
    rw [if_neg h4, if_pos h6, List.length_cons, hlen]

theorem closedB_frame (params : Params) (b1 b2 : Byte) {len : Byte} {p tr : List Byte} (hp : p.length = len.toNat)
    (htr : tr.length = trailerLength .b) (rest : List Byte) :
    closedB params (acceptedMarker .b :: b1 :: b2 :: len :: (p ++ tr) ++ rest) =
      ⟨verdict (trailerHalf .b tr) (frameChecksum .b params b1 b2 len p) (frameKnown .b params b1 b2),
        6 + len.toNat, recordOf .b params b1 b2 len p (trailerHalf .b tr)⟩ := by
  obtain ⟨l, h, rfl⟩ := List.length_eq_two.mp htr
  have hq : acceptedMarker .b :: b1 :: b2 :: len :: (p ++ [l, h]) ++ rest =
      acceptedMarker .b :: b1 :: b2 :: len :: (p ++ l :: h :: rest) := by simp
  have h3 : (acceptedMarker .b :: b1 :: b2 :: len :: (p ++ l :: h :: rest)).getD 3 0 = len := rfl
  have hlo : (acceptedMarker .b :: b1 :: b2 :: len :: (p ++ l :: h :: rest)).getD (4 + p.length) 0 = l :=
    getD_frame _ b1 b2 len p (l :: h :: rest) 0
  have hhi : (acceptedMarker .b :: b1 :: b2 :: len :: (p ++ l :: h :: rest)).getD (5 + p.length) 0 = h := by
    rw [show 5 + p.length = 4 + p.length + 1 by omega]
    exact getD_frame _ b1 b2 len p (l :: h :: rest) 1
  have h4 : ¬ (acceptedMarker .b :: b1 :: b2 :: len :: (p ++ l :: h :: rest)).length < 4 := by simp
  have h6 : ¬ (acceptedMarker .b :: b1 :: b2 :: len :: (p ++ l :: h :: rest)).length < 6 + p.length := by
    simp
    omega
  have hchk : l.toNat + 256 * h.toNat = (joinHalf h l).toNat := (toNat_joinHalf h l).symm
  rw [hq]
  unfold closedB
  dsimp only
  rw [if_neg (by simp [acceptedMarker, markerB]), if_neg h4, h3, ← hp, if_neg h6, hlo, hhi, hchk, take_frame,
    take_drop_frame, BitVec.ofNat_toNat, BitVec.setWidth_eq]
  have hnat : (joinHalf h l).toNat = (crc16 ([acceptedMarker .b, b1, b2, len] ++ p)).toNat ↔
    trailerHalf .b [l, h] = frameChecksum .b params b1 b2 len p := BitVec.toNat_inj
  by_cases heq : trailerHalf .b [l, h] = frameChecksum .b params b1 b2 len p
  case pos =>
    rw [if_neg (not_not.mpr (hnat.mpr heq)), verdict_of_eq heq, recordOf_of_eq heq]
    rfl
  case neg =>
    rw [if_pos (mt hnat.mp heq), verdict_of_ne heq, recordOf_of_ne heq]

theorem closedFromMarkerA_cutShort (params : Params) (k : Nat) {q : List Byte} (hq : CutShort .a q) :
    closedFromMarkerA params k (acceptedMarker .a :: q) = ⟨.truncated, k + 1 + q.length, none⟩ := by
  have hlen : k + (q.length + 1) = k + 1 + q.length := by omega
  unfold closedFromMarkerA
  dsimp only
  by_cases h4 : (acceptedMarker .a :: q).length < 4
  · rw [if_pos h4, List.length_cons, hlen]
  · have h5 : (acceptedMarker .a :: q).length < 5 + ((acceptedMarker .a :: q).getD 3 0).toNat := by
      simp [CutShort, trailerLength] at hq ⊢
      omega
    rw [if_neg h4, if_pos h5, List.length_cons, hlen]

theorem closedFromMarkerA_frame (params : Params) (k : Nat) (b1 b2 : Byte) {len : Byte} {p tr : List Byte}
    (hp : p.length = len.toNat) (htr : tr.length = trailerLength .a) (rest : List Byte) :
    closedFromMarkerA params k (acceptedMarker .a :: b1 :: b2 :: len :: (p ++ tr) ++ rest) =
      ⟨verdict (trailerHalf .a tr) (frameChecksum .a params b1 b2 len p) (frameKnown .a params b1 b2),
        k + 5 + len.toNat, recordOf .a params b1 b2 len p (trailerHalf .a tr)⟩ := by
  obtain ⟨c, rfl⟩ := List.length_eq_one_iff.mp htr
  have hq : acceptedMarker .a :: b1 :: b2 :: len :: (p ++ [c]) ++ rest =
      acceptedMarker .a :: b1 :: b2 :: len :: (p ++ c :: rest) := by simp
  have h1 : (acceptedMarker .a :: b1 :: b2 :: len :: (p ++ c :: rest)).getD 1 0 = b1 := rfl
  have h2 : (acceptedMarker .a :: b1 :: b2 :: len :: (p ++ c :: rest)).getD 2 0 = b2 := rfl
  have h3 : (acceptedMarker .a :: b1 :: b2 :: len :: (p ++ c :: rest)).getD 3 0 = len := rfl
  have hc : (acceptedMarker .a :: b1 :: b2 :: len :: (p ++ c :: rest)).getD (4 + p.length) 0 = c :=
    getD_frame _ b1 b2 len p (c :: rest) 0
  have h4 : ¬ (acceptedMarker .a :: b1 :: b2 :: len :: (p ++ c :: rest)).length < 4 := by simp
  have h5 : ¬ (acceptedMarker .a :: b1 :: b2 :: len :: (p ++ c :: rest)).length < 5 + p.length := by
    simp
    omega
  rw [hq]
  unfold closedFromMarkerA
  dsimp only
  rw [if_neg h4, h1, h2, h3, ← hp, if_neg h5, hc, take_drop_frame]
  by_cases heq : c = sum8 (tagOf params.aTagPos b1 b2) p
  case pos =>
    have hhalf : trailerHalf .a [c] = frameChecksum .a params b1 b2 len p := congrArg (BitVec.setWidth 16) heq
    rw [if_neg (not_not.mpr heq), verdict_of_eq hhalf, recordOf_of_eq hhalf]
    rfl
  case neg =>
    have hhalf : trailerHalf .a [c] ≠ frameChecksum .a params b1 b2 len p := fun h => heq (setWidth16_injective h)
    rw [if_pos heq, verdict_of_ne hhalf, recordOf_of_ne hhalf]

/-- The bytes before the first marker are what a variant A parse discards. -/
theorem takeWhile_noise {noise : List Byte} (hn : Noise .a noise) (q : List Byte) :
    (noise ++ q).takeWhile (fun b => decide (b ≠ 0xF0#8)) = noise ++ q.takeWhile (fun b => decide (b ≠ 0xF0#8)) := by
  refine List.takeWhile_append_of_pos fun b hb => decide_eq_true ?_
  rintro rfl
  exact hn hb

theorem closedA_noise (params : Params) {noise : List Byte} (hn : Noise .a noise) :
    closedA params noise = ⟨.truncated, noise.length, none⟩ := by
  have hall := takeWhile_noise hn []
  rw [List.append_nil, List.takeWhile_nil, List.append_nil] at hall
  simp only [closedA, hall, List.drop_length]
  rfl

theorem closedA_marker (params : Params) {noise : List Byte} (hn : Noise .a noise) (q : List Byte) :
    closedA params (noise ++ acceptedMarker .a :: q) =
      closedFromMarkerA params noise.length (acceptedMarker .a :: q) := by
  have hfirst := takeWhile_noise hn (acceptedMarker .a :: q)
  rw [List.takeWhile_cons_of_neg (by simp [acceptedMarker, markerA]), List.append_nil] at hfirst
  simp only [closedA, hfirst, List.drop_left]

/-! Both closed forms on one buffer. -/

theorem closed_noise {v : Variant} (params : Params) {noise : List Byte} (hn : Noise v noise) :
    closed v params noise = ⟨.truncated, noise.length, none⟩ := by
  cases v
  case a => exact closedA_noise params hn
  case b => obtain rfl : noise = [] := hn; rfl

theorem closed_cutShort {v : Variant} (params : Params) {noise q : List Byte} (hn : Noise v noise)
    (hq : CutShort v q) :
    closed v params (noise ++ acceptedMarker v :: q) = ⟨.truncated, noise.length + 1 + q.length, none⟩ := by
  cases v
  case a => exact (closedA_marker params hn q).trans (closedFromMarkerA_cutShort params _ hq)
  case b =>
    obtain rfl : noise = [] := hn
    simpa [closed] using closedB_cutShort params hq

theorem closed_frame {v : Variant} (params : Params) {noise : List Byte} (hn : Noise v noise) (b1 b2 : Byte)
    {len : Byte} {p tr : List Byte} (hp : p.length = len.toNat) (htr : tr.length = trailerLength v) (rest : List Byte) :
    closed v params (noise ++ acceptedMarker v :: b1 :: b2 :: len :: (p ++ tr) ++ rest) =
      ⟨verdict (trailerHalf v tr) (frameChecksum v params b1 b2 len p) (frameKnown v params b1 b2),
        noise.length + 4 + len.toNat + trailerLength v, recordOf v params b1 b2 len p (trailerHalf v tr)⟩ := by
  rw [List.append_assoc]
  cases v
  case a =>
    refine (closedA_marker params hn _).trans ((closedFromMarkerA_frame params _ b1 b2 hp htr rest).trans ?_)
    rw [show noise.length + 4 + len.toNat + trailerLength .a = noise.length + 5 + len.toNat by
      simp [trailerLength]; omega]
  case b =>
    obtain rfl : noise = [] := hn
    refine (closedB_frame params b1 b2 hp htr rest).trans ?_
    rw [show ([] : List Byte).length + 4 + len.toNat + trailerLength .b = 6 + len.toNat by
      simp [trailerLength]; omega]

/-! ## The parse is its closed form -/

/-- A buffer is noise, or noise and then a marker, or in variant B begins with another byte (R163). -/
theorem noise_cases (v : Variant) (q : List Byte) :
    Noise v q ∨ (∃ noise r, Noise v noise ∧ q = noise ++ acceptedMarker v :: r) ∨
      (v = .b ∧ ∃ b r, b ≠ acceptedMarker .b ∧ q = b :: r) := by
  cases v
  case a =>
    by_cases hmem : 0xF0#8 ∈ q
    · obtain ⟨noise, r, hq, hn⟩ := List.eq_append_cons_of_mem hmem
      exact .inr (.inl ⟨noise, r, hn, hq⟩)
    · exact .inl hmem
  case b =>
    match q with
    | [] => exact .inl rfl
    | b :: r =>
      by_cases hb : b = acceptedMarker .b
      · exact .inr (.inl ⟨[], r, rfl, by rw [hb]; rfl⟩)
      · exact .inr (.inr ⟨rfl, b, r, hb, rfl⟩)

/-- The parse of any buffer, byte by byte, is the closed form. -/
theorem parse_matches_closed (v : Variant) (q : List Byte) {s : State} (h : s.rxSt.isActive = false) :
    ParseGives v q s (closed v s.params q) := by
  rcases noise_cases v q with hn | ⟨noise, r, hn, rfl⟩ | ⟨rfl, b, r, hb, rfl⟩
  · rw [closed_noise s.params hn]
    exact parseGives_noise h hn
  · rcases cutShort_or_frame v r with hr | ⟨b1, b2, len, p, tr, rest, rfl, hp, htr⟩
    · rw [closed_cutShort s.params hn hr]
      exact parseGives_cutShort h hn hr
    · have hframe := parseGives_frame h hn b1 b2 hp htr rest
      rw [← closed_frame s.params hn b1 b2 hp htr rest] at hframe
      simpa using hframe
  · have hclosed : closed .b s.params (b :: r) = ⟨.wrongDirection, 1, none⟩ := if_pos hb
    rw [hclosed]
    exact parseGives_wrongDirection h hb r

end Sys2Proof.Machine
end

section
/-! PROOFS. The statements about the parse of a whole buffer (43_frame_decode.md sections 5 and 6). -/

namespace Sys2Proof.Machine

/-- Settles O32: a variant B buffer begins with another byte than the marker, is cut short, or holds a whole frame. -/
theorem parseBMatchesTheClosedForm : Obligations.ParseBMatchesTheClosedForm := fun _ q h =>
  parse_matches_closed .b q (RxStage.isActive_eq_false_iff.mpr h)

/-- Settles O33: a variant A buffer is noise, or noise and then a frame, cut short or whole. -/
theorem parseAMatchesTheClosedForm : Obligations.ParseAMatchesTheClosedForm := fun _ q h =>
  parse_matches_closed .a q (RxStage.isActive_eq_false_iff.mpr h)

/-- What a parse answers, where its closed form is known. -/
theorem parse_of_closed {v : Variant} {q : List Byte} {s : State} (h : s.rxSt = .idle ∨ s.rxSt = .done)
    {r : ParseResult} (hr : closed v s.params q = r) :
    ∃ t, parse v q s = .next t ∧ t.rxSt = .done ∧ t.rxRes = r.res ∧ t.rxs = (q.drop r.consumed).map .byte ∧
      frameRecord t = r.record := by
  obtain ⟨t, ht, hst, hres, hrxs, hrec, -⟩ := parse_matches_closed v q (RxStage.isActive_eq_false_iff.mpr h)
  rw [hr] at hres hrxs hrec
  exact ⟨t, ht, hst, hres, hrxs, hrec⟩

/-- The frame a build of a variant appends (R147, R148). -/
def builtFrame (v : Variant) (params : Params) (d : Direction) (b1 b2 : Byte) (p : List Byte) : List Byte :=
  match v with
  | .a => frameA params.aTagPos d b1 b2 p
  | .b => frameB d b1 b2 p

/-- The trailer a build makes: the checksum, low byte first where there are two (R85, R147, R148). -/
def builtTrailer (v : Variant) (params : Params) (b1 b2 : Byte) (p : List Byte) : List Byte :=
  match v with
  | .a => [sum8 (tagOf params.aTagPos b1 b2) p]
  | .b => [lo (frameChecksum .b params b1 b2 (lenByte p) p), hi (frameChecksum .b params b1 b2 (lenByte p) p)]

/-- A device-to-host build is the accepted marker, the header, the payload and the checksum. -/
theorem builtFrame_d2h (v : Variant) (params : Params) (b1 b2 : Byte) (p : List Byte) :
    builtFrame v params .d2h b1 b2 p =
      acceptedMarker v :: b1 :: b2 :: lenByte p :: (p ++ builtTrailer v params b1 b2 p) := by
  cases v <;> rfl

theorem length_builtTrailer (v : Variant) (params : Params) (b1 b2 : Byte) (p : List Byte) :
    (builtTrailer v params b1 b2 p).length = trailerLength v := by
  cases v <;> rfl

theorem trailerHalf_builtTrailer (v : Variant) (params : Params) (b1 b2 : Byte) (p : List Byte) :
    trailerHalf v (builtTrailer v params b1 b2 p) = frameChecksum v params b1 b2 (lenByte p) p := by
  cases v
  case a => rfl
  case b => exact joinHalf_hi_lo _

theorem exec_buildInstr_of_le (v : Variant) (d : Direction) (b1 b2 : Byte) {p : List Byte} (h : p.length ≤ 255)
    (s : State) :
    exec (buildInstr v d b1 b2 p) s =
      .next { s with txs := s.txs ++ builtFrame v s.params d b1 b2 p, txRes := .ok, ret := [0x01#8] } := by
  cases v
  case a => exact (exec_txBuildA d b1 b2 p s).trans (by rw [build_of_le h]; rfl)
  case b => exact (exec_txBuildB d b1 b2 p s).trans (by rw [build_of_le h]; rfl)

/-- Settles O34: the built frame is the marker, the operands and their checksum, which is what the parse of a whole
frame compares its trailer with. -/
theorem builtFrameParsesBack : Obligations.BuiltFrameParsesBack := by
  intro s v b1 b2 p hp hst
  have hlen : p.length = (lenByte p).toNat := (toNat_lenByte (Nat.lt_succ_of_le hp)).symm
  have hn : Noise v [] := by cases v <;> simp [Noise]
  have hclosed := closed_frame s.params hn b1 b2 hlen (length_builtTrailer v s.params b1 b2 p) []
  rw [List.append_nil, List.nil_append, ← builtFrame_d2h, trailerHalf_builtTrailer, verdict_of_eq rfl,
    recordOf_of_eq rfl] at hclosed
  obtain ⟨t, ht, hdone, hres, hrxs, hrec⟩ :=
    parse_of_closed (s := { s with txs := s.txs ++ builtFrame v s.params .d2h b1 b2 p, txRes := .ok, ret := [0x01#8] })
      hst hclosed
  refine ⟨_, _, t, exec_buildInstr_of_le v .d2h b1 b2 hp s, rfl, ht, hdone, ?_, ?_, ?_⟩
  · rw [hrxs, List.drop_eq_nil_of_le (by simp [builtFrame_d2h, length_builtTrailer, hlen]; omega)]
    rfl
  · cases v <;> exact hres
  · cases v <;> exact hrec

end Sys2Proof.Machine
end


section
/-! SUPPORT. The closed form of a built frame that was cut off or had one bit flipped (R179, R213). -/

namespace Sys2Proof.Machine

theorem noise_nil (v : Variant) : Noise v [] := by
  cases v
  case a => exact List.not_mem_nil
  case b => rfl

/-- A frame whose trailer is not its checksum (R167, R168). -/
def Mismatch (r : ParseResult) : Prop := r.res = .checksumMismatch ∧ r.record = none

section Closed

variable {v : Variant} (params : Params) (b1 b2 : Byte)

theorem closed_mismatch {len : Byte} {p tr : List Byte} (hp : p.length = len.toNat)
    (htr : tr.length = trailerLength v) (hne : trailerHalf v tr ≠ frameChecksum v params b1 b2 len p) :
    Mismatch (closed v params (acceptedMarker v :: b1 :: b2 :: len :: (p ++ tr))) := by
  have hclosed := closed_frame params (noise_nil v) b1 b2 hp htr []
  rw [List.append_nil, List.nil_append, verdict_of_ne hne, recordOf_of_ne hne] at hclosed
  rw [hclosed]
  exact ⟨rfl, rfl⟩

/-- A whole frame whose trailer is its checksum: the catalog decides. -/
theorem closed_match_res {len : Byte} {p tr : List Byte} (hp : p.length = len.toNat)
    (htr : tr.length = trailerLength v) (heq : trailerHalf v tr = frameChecksum v params b1 b2 len p) :
    (closed v params (acceptedMarker v :: b1 :: b2 :: len :: (p ++ tr))).res =
      if frameKnown v params b1 b2 = true then .ok else .unknownTag := by
  have hclosed := closed_frame params (noise_nil v) b1 b2 hp htr []
  rw [List.append_nil, List.nil_append, verdict_of_eq heq] at hclosed
  rw [hclosed]

theorem closed_cutShort_marker {q : List Byte} (hq : CutShort v q) :
    closed v params (acceptedMarker v :: q) = ⟨.truncated, q.length + 1, none⟩ := by
  simpa [Nat.add_comm] using closed_cutShort params (noise_nil v) hq

/-- A longer length than the bytes behind it allow (R213). -/
theorem closed_of_len_lt {len : Byte} {r : List Byte} (h : r.length < len.toNat + trailerLength v) :
    (closed v params (acceptedMarker v :: b1 :: b2 :: len :: r)).res = .truncated := by
  rw [closed_cutShort_marker params]
  simp [CutShort]
  omega

end Closed

theorem length_eq_toNat_lenByte {p : List Byte} (h : p.length ≤ 255) : p.length = (lenByte p).toNat :=
  (toNat_lenByte (Nat.lt_succ_of_le h)).symm

theorem length_builtFrame (v : Variant) (params : Params) (b1 b2 : Byte) (p : List Byte) :
    (builtFrame v params .d2h b1 b2 p).length = 4 + p.length + trailerLength v := by
  rw [builtFrame_d2h]
  simp [length_builtTrailer]
  omega

/-- A built frame cut off anywhere is noise or cut short. -/
theorem closed_take_builtFrame (v : Variant) (params : Params) (b1 b2 : Byte) {p : List Byte} {k : Nat}
    (hp : p.length ≤ 255) (hk : k < (builtFrame v params .d2h b1 b2 p).length) :
    closed v params ((builtFrame v params .d2h b1 b2 p).take k) = ⟨.truncated, k, none⟩ := by
  rw [length_builtFrame] at hk
  rw [builtFrame_d2h]
  cases k with
  | zero => exact closed_noise params (noise_nil v)
  | succ k =>
    have hlen := length_eq_toNat_lenByte hp
    have htrailer := length_builtTrailer v params b1 b2 p
    have hcut : CutShort v ((b1 :: b2 :: lenByte p :: (p ++ builtTrailer v params b1 b2 p)).take k) := by
      match k with
      | 0 => simp [CutShort]
      | 1 => simp [CutShort]; omega
      | 2 => simp [CutShort]; omega
      | k + 3 => simp [CutShort, htrailer]; omega
    rw [List.take_succ_cons, closed_cutShort_marker params hcut, List.length_take,
      Nat.min_eq_left (by simp [htrailer]; omega)]

/-! A flipped bit changes the checksum of the covered bytes, or the trailer. -/

section Flipped

variable {i k : Nat} (hk : k < 8)
include hk

/-- Flipping a bit that is 0 makes the number larger. -/
theorem toNat_lt_xor_bit_of_clear {b : Byte} (h : b.getLsbD k = false) : b.toNat < (b ^^^ (1#8 <<< k)).toNat := by
  refine Nat.lt_of_testBit k ?_ ?_ fun j hj => ?_ <;> rw [BitVec.testBit_toNat]
  · exact h
  · simpa [hk] using h
  · have hshift : j - k ≠ 0 := by omega
    rw [BitVec.testBit_toNat]
    simp [hshift]

theorem frameChecksum_flipPayload_ne (v : Variant) (params : Params) (b1 b2 len : Byte) {p : List Byte}
    (hi : i < p.length) :
    frameChecksum v params b1 b2 len (flipBit p i k) ≠ frameChecksum v params b1 b2 len p := by
  cases v
  case a => exact setWidth16_injective.ne (sum8_flipPayload_ne _ hi hk)
  case b =>
    have hne := crcDetectsOneFlippedBit ([acceptedMarker .b, b1, b2, len] ++ p) (4 + i) k (by simp; omega) hk
    rwa [show 4 + i = [acceptedMarker .b, b1, b2, len].length + i from rfl, flipBit_append_right] at hne

theorem trailerHalf_flipBit_ne (v : Variant) {tr : List Byte} (htr : tr.length = trailerLength v)
    (hi : i < tr.length) : trailerHalf v (flipBit tr i k) ≠ trailerHalf v tr := by
  cases v
  case a =>
    obtain ⟨c, rfl⟩ := List.length_eq_one_iff.mp htr
    obtain rfl : i = 0 := by simpa using hi
    exact setWidth16_injective.ne (xor_bit_ne c hk)
  case b =>
    obtain ⟨l, h, rfl⟩ := List.length_eq_two.mp htr
    intro heq
    match i, hi with
    | 0, _ => exact xor_bit_ne l hk (by simpa [trailerHalf] using congrArg lo heq)
    | 1, _ => exact xor_bit_ne h hk (by simpa [trailerHalf] using congrArg Machine.hi heq)

/-- One flipped bit behind the header of a built frame: in the payload the checksum changes, else the trailer. -/
theorem closed_flipBody (v : Variant) (params : Params) (b1 b2 : Byte) {p : List Byte} (hp : p.length ≤ 255)
    (hi4 : 4 ≤ i) (hi : i < 4 + p.length + trailerLength v) :
    Mismatch (closed v params (flipBit (builtFrame v params .d2h b1 b2 p) i k)) := by
  obtain ⟨j, rfl⟩ := Nat.exists_eq_add_of_le' hi4
  have hlen := length_eq_toNat_lenByte hp
  have htr := length_builtTrailer v params b1 b2 p
  have hmatch := trailerHalf_builtTrailer v params b1 b2 p
  rw [builtFrame_d2h]
  simp only [flipBit_cons_succ]
  by_cases hj : j < p.length
  case pos =>
    rw [flipBit_append_left _ k hj]
    refine closed_mismatch params b1 b2 (by rwa [length_flipBit]) htr ?_
    rw [hmatch]
    exact (frameChecksum_flipPayload_ne hk v params b1 b2 _ hj).symm
  case neg =>
    obtain ⟨l, rfl⟩ := Nat.exists_eq_add_of_le (Nat.le_of_not_lt hj)
    rw [flipBit_append_right]
    refine closed_mismatch params b1 b2 hlen (by rwa [length_flipBit]) ?_
    rw [← hmatch]
    exact trailerHalf_flipBit_ne hk v htr (by omega)

/-- The length of a built frame flipped upwards. -/
theorem closed_flipLen (v : Variant) (params : Params) (b1 b2 : Byte) {p : List Byte} (hp : p.length ≤ 255)
    (hbit : (lenByte p).getLsbD k = false) :
    (closed v params (flipBit (builtFrame v params .d2h b1 b2 p) 3 k)).res = .truncated := by
  have hlen := length_eq_toNat_lenByte hp
  have hgrow := toNat_lt_xor_bit_of_clear hk hbit
  rw [builtFrame_d2h]
  refine closed_of_len_lt (len := lenByte p ^^^ (1#8 <<< k)) params b1 b2 ?_
  rw [List.length_append, length_builtTrailer]
  omega

/-- A flipped bit of the tag of a variant A frame (R88). -/
theorem closed_flipTagA (params : Params) (b1 b2 : Byte) {p : List Byte} (hp : p.length ≤ 255)
    (hi : i = (match params.aTagPos with | .one => 1 | .two => 2)) :
    Mismatch (closed .a params (flipBit (builtFrame .a params .d2h b1 b2 p) i k)) := by
  have hlen := length_eq_toNat_lenByte hp
  have htr := length_builtTrailer .a params b1 b2 p
  have hmatch := trailerHalf_builtTrailer .a params b1 b2 p
  have hne := (sum8_flipTag_ne (tagOf params.aTagPos b1 b2) p hk).symm
  rw [builtFrame_d2h]
  cases hpos : params.aTagPos <;> rw [hpos] at hi hne <;> obtain rfl := hi
  · refine closed_mismatch params (b1 ^^^ (1#8 <<< k)) b2 hlen htr ?_
    rw [hmatch]
    refine setWidth16_injective.ne ?_
    rw [hpos]
    exact hne
  · refine closed_mismatch params b1 (b2 ^^^ (1#8 <<< k)) hlen htr ?_
    rw [hmatch]
    refine setWidth16_injective.ne ?_
    rw [hpos]
    exact hne

/-- A flipped bit of the bytes behind the marker that variant B covers (R89). -/
theorem closed_flipHeaderB (params : Params) (b1 b2 : Byte) {p : List Byte} (hp : p.length ≤ 255)
    (hi : i = 1 ∨ i = 2) : Mismatch (closed .b params (flipBit (builtFrame .b params .d2h b1 b2 p) i k)) := by
  have hlen := length_eq_toNat_lenByte hp
  have htr := length_builtTrailer .b params b1 b2 p
  have hmatch := trailerHalf_builtTrailer .b params b1 b2 p
  have hne := crcDetectsOneFlippedBit ([acceptedMarker .b, b1, b2, lenByte p] ++ p) i k
  rw [builtFrame_d2h]
  rcases hi with rfl | rfl
  · refine closed_mismatch params (b1 ^^^ (1#8 <<< k)) b2 hlen htr ?_
    rw [hmatch]
    exact (hne (by simp) hk).symm
  · refine closed_mismatch params b1 (b2 ^^^ (1#8 <<< k)) hlen htr ?_
    rw [hmatch]
    exact (hne (by simp) hk).symm

end Flipped

/-- A flipped bit of the header byte that variant A does not cover: the checksum is of the same tag (R88). -/
theorem closed_flipUncoveredA {i : Nat} (k : Nat) (params : Params) (b1 b2 : Byte) {p : List Byte}
    (hp : p.length ≤ 255) (hi : i = (match params.aTagPos with | .one => 2 | .two => 1)) :
    (closed .a params (flipBit (builtFrame .a params .d2h b1 b2 p) i k)).res =
      if knownA params (tagOf params.aTagPos b1 b2) = true then .ok else .unknownTag := by
  have hlen := length_eq_toNat_lenByte hp
  have htr := length_builtTrailer .a params b1 b2 p
  have hmatch := trailerHalf_builtTrailer .a params b1 b2 p
  rw [builtFrame_d2h]
  cases hpos : params.aTagPos <;> rw [hpos] at hi <;> obtain rfl := hi
  · have hres := closed_match_res params b1 (b2 ^^^ (1#8 <<< k)) hlen htr
    simp only [frameChecksum, frameKnown, hpos, tagOf] at hres hmatch
    exact hres hmatch
  · have hres := closed_match_res params (b1 ^^^ (1#8 <<< k)) b2 hlen htr
    simp only [frameChecksum, frameKnown, hpos, tagOf] at hres hmatch
    exact hres hmatch

end Sys2Proof.Machine
end

section
/-! PROOFS. What a parse does not accept, or takes for what it is not: host-to-device cut-off frames, single flipped
bits (42_frame_encode.md section 3, 60_exceptions.md section 3). -/

namespace Sys2Proof.Machine

/-- Settles O35: the marker of the other direction is not variant B's, and is noise to a variant A scan. -/
theorem hostToDeviceFrameIsNotAccepted : Obligations.HostToDeviceFrameIsNotAccepted := by
  intro s b1 b2 p hp hst
  constructor
  · have hparse := parse_wrongDirection (RxStage.isActive_eq_false_iff.mpr hst) (b := markerB .h2d) (by decide)
      ((frameB .h2d b1 b2 p).drop 1)
    exact ⟨_, hparse, rfl, rfl, rfl, frameRecord_of_not_valid (by simp)⟩
  · intro hmem
    obtain ⟨t, ht, -, hres, hrxs, hrec⟩ := parse_of_closed hst (closed_noise (v := .a) s.params hmem)
    exact ⟨t, ht, hres, by rw [hrxs, List.drop_length]; rfl, hrec⟩

/-- Settles O36: a frame that is cut off ends before its trailer does. -/
theorem properPrefixesAreTruncated : Obligations.ProperPrefixesAreTruncated := by
  intro s b1 b2 p k hp hst
  have hcut : ∀ v, k < (builtFrame v s.params .d2h b1 b2 p).length →
      ∃ t, parse v ((builtFrame v s.params .d2h b1 b2 p).take k) s = .next t ∧ t.rxRes = .truncated ∧ t.rxs = [] ∧
        frameRecord t = none := by
    intro v hk
    obtain ⟨t, ht, -, hres, hrxs, hrec⟩ := parse_of_closed hst (closed_take_builtFrame v s.params b1 b2 hp hk)
    refine ⟨t, ht, hres, ?_, hrec⟩
    rw [hrxs, List.drop_eq_nil_of_le (List.length_take_le _ _)]
    rfl
  exact ⟨hcut .b, hcut .a⟩

/-- Settles O37, by the position of the flipped bit: the marker decides alone, the covered bytes change the CRC, a
longer length outruns the buffer. -/
theorem oneFlippedBitInAVariantBFrame : Obligations.OneFlippedBitInAVariantBFrame := by
  intro s b1 b2 p i k hp hst hk
  have hmarker : i = 0 → closed .b s.params (flipBit (frameB .d2h b1 b2 p) i k) = ⟨.wrongDirection, 1, none⟩ := by
    rintro rfl
    exact if_pos (xor_bit_ne (markerB .d2h) hk)
  have hcovered : i = 1 ∨ i = 2 ∨ (4 ≤ i ∧ i < 6 + p.length) →
      Mismatch (closed .b s.params (flipBit (frameB .d2h b1 b2 p) i k)) := by
    rintro (hi | hi | ⟨hi4, hi⟩)
    · exact closed_flipHeaderB hk s.params b1 b2 hp (.inl hi)
    · exact closed_flipHeaderB hk s.params b1 b2 hp (.inr hi)
    · exact closed_flipBody hk .b s.params b1 b2 hp hi4 (by simpa [trailerLength] using by omega)
  obtain ⟨t, ht, -, hres, -, hrec⟩ := parse_of_closed (v := .b) (q := flipBit (frameB .d2h b1 b2 p) i k) hst rfl
  refine ⟨t, ht, ?_, ?_, ?_, ?_⟩
  · intro hi
    rw [hres, hmarker hi]
  · exact fun hi => hres.trans (hcovered hi).1
  · rintro rfl hbit
    exact hres.trans (closed_flipLen hk .b s.params b1 b2 hp hbit)
  · intro hi
    by_cases h0 : i = 0
    · rw [hrec, hmarker h0]
    · exact hrec.trans (hcovered (by omega)).2

/-- Settles O38, by the position of the flipped bit: without its marker the frame is noise, the covered bytes change the
sum, the uncovered one changes nothing that is compared, a longer length outruns the buffer. -/
theorem oneFlippedBitInAVariantAFrame : Obligations.OneFlippedBitInAVariantAFrame := by
  intro s b1 b2 p i k hp hst hk
  obtain ⟨t, ht, -, hres, -⟩ :=
    parse_of_closed (v := .a) (q := flipBit (frameA s.params.aTagPos .d2h b1 b2 p) i k) hst rfl
  refine ⟨t, ht, ?_, ?_, ?_, ?_⟩ <;> rw [hres]
  · rintro (hi | ⟨hi4, hi⟩)
    · exact (closed_flipTagA hk s.params b1 b2 hp hi).1
    · exact (closed_flipBody hk .a s.params b1 b2 hp hi4 (by simpa [trailerLength] using by omega)).1
  · exact closed_flipUncoveredA k s.params b1 b2 hp
  · rintro rfl hrest
    have hnoise : Noise .a (flipBit (frameA s.params.aTagPos .d2h b1 b2 p) 0 k) := by
      refine List.not_mem_cons_of_ne_of_not_mem (xor_bit_ne (markerA .d2h) hk).symm hrest
    rw [closed_noise s.params hnoise]
  · rintro rfl hbit
    exact closed_flipLen hk .a s.params b1 b2 hp hbit

end Sys2Proof.Machine
end

section
/-! SUPPORT. The parser after a buffer, whatever the payload buffer and the other units held before (R44). -/

namespace Sys2Proof.Machine

/-- The end of a buffer: a short read, where the parse is still active (R96, R169). -/
def endOfBuffer (s : State) : State := if s.rxSt.isActive = true then raiseRx .truncated s else s

/-- A parse of a buffer feeds it, whether it ends inside the buffer or with it. -/
theorem parse_eq_feed (v : Variant) (q : List Byte) {s : State} (h : s.rxSt.isActive = false) :
    ∃ es, parse v q s = .next (withStream es [] (endOfBuffer (feed q (startParse v s)))) := by
  cases ha : (feed q (startParse v s)).rxSt.isActive
  case true => exact ⟨[], by rw [parse_of_active h ha, endOfBuffer, if_pos ha]⟩
  case false =>
    obtain ⟨n, hn, hreads, hend⟩ := exists_readsAll_take q (startParse v s)
    have hsplit : feed q (startParse v s) = feed (q.drop n) (feed (q.take n) (startParse v s)) := by
      rw [← feed_append, List.take_append_drop]
    have hinactive : (feed (q.take n) (startParse v s)).rxSt.isActive = false := by
      rcases Nat.lt_or_eq_of_le hn with hlt | rfl
      · exact hend hlt
      · rwa [List.take_length]
    have hparse := parse_of_inactive h hreads hinactive (q.drop n)
    rw [List.take_append_drop] at hparse
    refine ⟨(q.drop n).map .byte, ?_⟩
    rw [hparse, endOfBuffer, if_neg (by simp [ha]), hsplit, feed_of_inactive hinactive]

/-- Bytes are taken alike whatever the rest of the state, the payload buffer included, held before. -/
theorem feed_withRest (q : List Byte) (u s : State) :
    ∃ m, feed q (withRest u s) = withRest { u with rxPbuf := m } (feed q s) := by
  induction q generalizing u s with
  | nil => exact ⟨u.rxPbuf, rfl⟩
  | cons b q ih =>
    obtain ⟨m, hm⟩ := ih { u with rxPbuf := pbufAfter b s u.rxPbuf } (takeByte b s)
    exact ⟨m, by rw [feed_cons, takeByte_withRest, hm, feed_cons]⟩

/-- Two starts of a parse differ in what is outside the parser only. -/
theorem startParse_eq_withRest (v : Variant) {s u : State} (h : s.params = u.params) :
    startParse v u = withRest u (startParse v s) := by
  simp [startParse, withRest, h]

end Sys2Proof.Machine
end

section
/-! PROOFS. The parse of a buffer and what came before it (10_state.md section 7); the variant A scan
(43_frame_decode.md section 2). -/

namespace Sys2Proof.Machine

/-- Settles O39: the parser's registers are set by the start and then by the bytes; the leftover stream and the record
are those of the closed form, which is of the buffer and the constants. -/
theorem parseDoesNotDependOnThePast : Obligations.ParseDoesNotDependOnThePast := by
  intro s u v q hs hu hparams
  obtain ⟨m, hfeed⟩ := feed_withRest q u (startParse v s)
  rw [← startParse_eq_withRest v hparams] at hfeed
  obtain ⟨es, ht⟩ := parse_eq_feed v q (RxStage.isActive_eq_false_iff.mpr hs)
  obtain ⟨fs, hw⟩ := parse_eq_feed v q (RxStage.isActive_eq_false_iff.mpr hu)
  rw [hfeed] at hw
  obtain ⟨t, ht', -, -, hrxs, hrec⟩ := parse_of_closed (v := v) (q := q) hs rfl
  obtain ⟨w, hw', -, -, hrxs', hrec'⟩ := parse_of_closed (v := v) (q := q) hu rfl
  rw [← hparams] at hrxs' hrec'
  rw [ht] at ht'
  rw [hw] at hw'
  cases ht'
  cases hw'
  refine ⟨_, _, ht, hw, ?_⟩
  have hrest : endOfBuffer (withRest { u with rxPbuf := m } (feed q (startParse v s))) =
      withRest { u with rxPbuf := m } (endOfBuffer (feed q (startParse v s))) := by
    unfold endOfBuffer
    rw [apply_ite (withRest { u with rxPbuf := m })]
    rfl
  rw [hrest] at hrxs' hrec' ⊢
  exact ⟨rfl, rfl, rfl, rfl, rfl, rfl, rfl, rfl, rfl, rfl, rfl, hrxs.trans hrxs'.symm, hrec.trans hrec'.symm⟩

/-- Settles O41: the scan reads every byte and keeps none. -/
theorem variantAScanDiscardsNoise : Obligations.VariantAScanDiscardsNoise := by
  intro s q hst hv hrxs hq
  obtain ⟨hreads, hfeed⟩ := feed_noise hst hv hq
  have hexec := execAll_rxBytes hreads (.inr (by rw [hrxs]))
  rw [hfeed, hrxs, List.drop_eq_nil_of_le (by simp)] at hexec
  exact ⟨_, hexec⟩

end Sys2Proof.Machine
end

section
/-! SUPPORT. How many bytes a parse can still take (R178 (e)). -/

namespace Sys2Proof.Machine

/-- A parse is active and is not a variant A scan for the marker, which alone has no bound (R178 (e)). -/
def Committed (s : State) : Prop := s.rxSt.isActive = true ∧ (s.rxVar = .b ∨ s.rxSt ≠ .awaitMarker)

/-- The bytes that end a committed parse at the latest: header, the longest payload the length byte still allows, and
two trailer bytes. -/
def bytesLeft (s : State) : Nat :=
  match s.rxSt with
  | .idle => 0
  | .awaitMarker => 261
  | .header => 260 - s.rxCnt.toNat
  | .payload => s.rxLen.toNat - s.rxCnt.toNat + 2
  | .trailer => 2 - s.rxCnt.toNat
  | .done => 0

section Stage

variable {s : State}

theorem bytesLeft_awaitMarker (h : s.rxSt = .awaitMarker) : bytesLeft s = 261 := by rw [bytesLeft, h]

theorem bytesLeft_header (h : s.rxSt = .header) : bytesLeft s = 260 - s.rxCnt.toNat := by rw [bytesLeft, h]

theorem bytesLeft_payload (h : s.rxSt = .payload) : bytesLeft s = s.rxLen.toNat - s.rxCnt.toNat + 2 := by
  rw [bytesLeft, h]

theorem bytesLeft_trailer (h : s.rxSt = .trailer) : bytesLeft s = 2 - s.rxCnt.toNat := by rw [bytesLeft, h]

theorem bytesLeft_le (s : State) : bytesLeft s ≤ 261 := by
  unfold bytesLeft
  split <;> omega

/-- A parse past its marker is committed. -/
theorem committed_of_stage (h : s.rxSt = .header ∨ s.rxSt = .payload ∨ s.rxSt = .trailer) : Committed s := by
  rcases h with h | h | h <;> exact ⟨by rw [h]; rfl, .inr (by simp [h])⟩

end Stage

/-- What an event, an instruction or a step does to a parse of which n bytes were left: it has ended, or is committed
with fewer bytes left. -/
def Advanced (n : Nat) (t : State) : Prop := t.rxSt = .done ∨ (Committed t ∧ bytesLeft t < n)

theorem bytesLeft_pos {s : State} (h : StateInv s) (hc : s.rxSt.isActive = true) : 0 < bytesLeft s := by
  obtain ⟨-, -, -, hstage⟩ := h
  cases hst : s.rxSt <;> rw [hst] at hc <;> rw [stageInv, hst] at hstage
  case idle | done => cases hc
  case awaitMarker => rw [bytesLeft_awaitMarker hst]; decide
  case header => rw [bytesLeft_header hst]; omega
  case payload => rw [bytesLeft_payload hst]; omega
  case trailer =>
    have hvar := s.rxVar.code.isLt
    rw [bytesLeft_trailer hst]
    omega

section Advance

variable {s : State} (h : StateInv s) (b : Byte)

theorem advanced_takeMarker (hst : s.rxSt = .awaitMarker) (hv : s.rxVar = .b) :
    Advanced (bytesLeft s) (takeMarker b s) := by
  by_cases hb : b = acceptedMarker .b
  case pos =>
    have hst' : (takeMarker b s).rxSt = .header := by simp [takeMarker, hv, hb]
    refine .inr ⟨committed_of_stage (.inl hst'), ?_⟩
    rw [bytesLeft_header hst', bytesLeft_awaitMarker hst]
    omega
  case neg => exact .inl (by simp [takeMarker, hv, hb])

theorem advanced_takeTrailerB (hst : s.rxSt = .trailer) (hv : s.rxVar = .b) :
    Advanced (bytesLeft s) (takeTrailerB b s) := by
  by_cases hc : s.rxCnt = 0#8
  case pos =>
    have hst' : (takeTrailerB b s).rxSt = .trailer := by rw [takeTrailerB_low b s hc, hst]
    refine .inr ⟨committed_of_stage (.inr (.inr hst')), ?_⟩
    rw [bytesLeft_trailer hst', bytesLeft_trailer hst, takeTrailerB_low b s hc, hc]
    exact Nat.lt_succ_self 1
  case neg =>
    rw [takeTrailerB_high b s hv hc]
    exact .inl rfl

include h

theorem advanced_takeHeader (hst : s.rxSt = .header) : Advanced (bytesLeft s) (takeHeader b s) := by
  obtain ⟨-, -, -, hstage⟩ := h
  rw [stageInv, hst] at hstage
  obtain ⟨hcnt, -, -⟩ := hstage
  have hst' := takeHeader_rxSt b s
  have hcnt' := takeHeader_rxCnt b s
  rw [bytesLeft_header hst]
  by_cases hn : s.rxCnt.toNat < 2
  case pos =>
    rw [if_pos hn] at hcnt' hst'
    rw [hst] at hst'
    refine .inr ⟨committed_of_stage (.inl hst'), ?_⟩
    rw [bytesLeft_header hst', hcnt']
    bv_omega
  case neg =>
    rw [if_neg hn] at hcnt' hst'
    by_cases hb : b = 0x00#8
    case pos =>
      rw [if_pos hb] at hst'
      refine .inr ⟨committed_of_stage (.inr (.inr hst')), ?_⟩
      rw [bytesLeft_trailer hst', hcnt']
      omega
    case neg =>
      rw [if_neg hb] at hst'
      have hlen := (takeHeader b s).rxLen.isLt
      refine .inr ⟨committed_of_stage (.inr (.inl hst')), ?_⟩
      rw [bytesLeft_payload hst', hcnt']
      omega

theorem advanced_takePayload (hst : s.rxSt = .payload) : Advanced (bytesLeft s) (takePayload b s) := by
  obtain ⟨-, -, -, hstage⟩ := h
  rw [stageInv, hst] at hstage
  obtain ⟨hcnt, -⟩ := hstage
  have hst' := takePayload_rxSt b s
  have hcnt' := takePayload_rxCnt b s
  rw [bytesLeft_payload hst]
  by_cases hend : s.rxCnt.toNat + 1 = s.rxLen.toNat
  case pos =>
    rw [if_pos hend] at hcnt' hst'
    refine .inr ⟨committed_of_stage (.inr (.inr hst')), ?_⟩
    rw [bytesLeft_trailer hst', hcnt']
    omega
  case neg =>
    rw [if_neg hend] at hcnt' hst'
    rw [hst] at hst'
    refine .inr ⟨committed_of_stage (.inr (.inl hst')), ?_⟩
    rw [bytesLeft_payload hst', hcnt', takePayload_rxLen]
    bv_omega

/-- Every byte brings a committed parse nearer to its end. -/
theorem advanced_takeByte (hc : Committed s) : Advanced (bytesLeft s) (takeByte b s) := by
  obtain ⟨hactive, hscan⟩ := hc
  cases hst : s.rxSt
  case idle | done => rw [hst] at hactive; cases hactive
  case awaitMarker =>
    rw [takeByte_awaitMarker b hst]
    exact advanced_takeMarker b hst (hscan.resolve_right (not_not.mpr hst))
  case header => rw [takeByte_header b hst]; exact advanced_takeHeader h b hst
  case payload => rw [takeByte_payload b hst]; exact advanced_takePayload h b hst
  case trailer =>
    cases hv : s.rxVar
    case a => rw [takeByte_trailerA b hst hv, takeTrailerA_eq b s hv]; exact .inl rfl
    case b => rw [takeByte_trailerB b hst hv]; exact advanced_takeTrailerB b hst hv

theorem advanced_takeEvent (hc : Committed s) (e : RxEvent) : Advanced (bytesLeft s) (takeEvent e s) := by
  cases e with
  | byte b => exact advanced_takeByte h b hc
  | short => exact .inl rfl

end Advance

/-- As many bytes as are left end a committed parse, whatever they are. -/
theorem feed_of_bytesLeft_le {q : List Byte} {s : State} (h : StateInv s) (hc : Committed s)
    (hq : bytesLeft s ≤ q.length) : (feed q s).rxSt = .done := by
  induction q generalizing s with
  | nil =>
    exact absurd (bytesLeft_pos h hc.1) (Nat.not_lt_of_le hq)
  | cons b q ih =>
    rw [feed_cons]
    rcases advanced_takeByte h b hc with hdone | ⟨hc', hlt⟩
    · rw [feed_of_inactive (by rw [hdone]; rfl), hdone]
    · exact ih (takeByte_keeps_stateInv h b) hc' (by rw [List.length_cons] at hq; omega)

end Sys2Proof.Machine
end

section
/-! PROOFS. Every parse that is not a variant A scan ends (43_frame_decode.md section 6, R178 (e)). -/

namespace Sys2Proof.Machine

/-- Settles O40: at most 261 bytes are left, and the bytes that are read are enough. -/
theorem parseEndsWithin261Bytes : Obligations.ParseEndsWithin261Bytes := by
  intro s q hinv hactive hscan hrxs hq
  have hdone := feed_of_bytesLeft_le hinv ⟨hactive, hscan⟩ (hq ▸ bytesLeft_le s)
  obtain ⟨n, hn, hreads, hend⟩ := exists_readsAll_take q s
  have hfeed : feed (q.take n) s = feed q s := by
    rcases Nat.lt_or_eq_of_le hn with hlt | rfl
    · rw [← feed_of_inactive (hend hlt) (q.drop n), ← feed_append, List.take_append_drop]
    · rw [List.take_length]
  exact ⟨n, _, hq ▸ hn, execAll_rxBytes hreads (.inl hrxs), by rw [withStream_rxSt, hfeed, hdone]⟩

end Sys2Proof.Machine
end

section
/-! SUPPORT. What a step does to a committed parse (R10, R178 (e)). -/

namespace Sys2Proof.Machine

/-- What a step leaves of a committed parse: no parse is active, or it is still committed, with no more bytes left, and
with fewer where the step answered its read. -/
def Progress (answered : Bool) (s t : State) : Prop :=
  t.rxSt.isActive = false ∨ (Committed t ∧ bytesLeft t ≤ bytesLeft s ∧ (answered = true → bytesLeft t < bytesLeft s))

theorem progress_of_advanced {s t : State} (h : Advanced (bytesLeft s) t) (answered : Bool) :
    Progress answered s t := by
  rcases h with hdone | ⟨hc, hlt⟩
  · exact .inl (RxStage.isActive_eq_false_iff.mpr (.inr hdone))
  · exact .inr ⟨hc, Nat.le_of_lt hlt, fun _ => hlt⟩

/-- What leaves the parser alone answers no read. -/
theorem progress_of_unread {s t : State} (hc : Committed s) (ht : t = inContext t s) : Progress false s t := by
  rw [ht]
  exact .inr ⟨hc, Nat.le_refl _, by simp⟩

/-- Bytes that arrive bring the parser one event, unless there are none at all. -/
theorem progress_arrive {s : State} (h : StateInv s) (hc : Committed s) (bs : List Byte) (ins : List Input) :
    Progress (!(s.rxs ++ bs.map RxEvent.byte).isEmpty) s (reply [] (arrive bs { s with inputs := ins })) := by
  cases he : s.rxs ++ bs.map RxEvent.byte with
  | nil =>
    rw [arrive_nothing (s := { s with inputs := ins }) he]
    exact progress_of_unread (t := reply [] { s with rxs := [], inputs := ins }) hc rfl
  | cons e es =>
    rw [arrive_active (s := { s with inputs := ins }) hc.1 he]
    exact progress_of_advanced (advanced_takeEvent (s := { s with rxs := es, inputs := ins }) h hc e) _

theorem bringsEvent_of_isFrame {i : Instr} (h : isFrame i = true) :
    bringsEvent i = true ∧ ∀ es : List RxEvent, (!(es ++ (encode i).map RxEvent.byte).isEmpty) = true := by
  cases i
  case frameAD2H | frameAH2D | frameBD2H | frameBH2D =>
    exact ⟨rfl, fun es => by simp [encode, encodeFrame]⟩
  all_goals cases h

theorem bringsEvent_of_partOf {i : Instr} (h : partOf i ≠ .rx) : bringsEvent i = false := by
  cases i
  case sumInit | sumByte | sumRead | crcInit | crcByte | crcRead | txBuildA | txBuildB => rfl
  all_goals exact absurd rfl h

/-- An instruction brings a committed parse nearer to its end if it is an event or a frame, and leaves it alone if not.
-/
theorem progress_exec {i : Instr} {s t : State} {ins : List Input} (h : StateInv s) (hc : Committed s)
    (hexec : exec i { s with inputs := ins } = .next t) : Progress (bringsEvent i) s t := by
  rcases exec_cases hexec with ⟨hp, v, r, rfl⟩ | ⟨hp, v, r, rfl⟩ | ⟨d, b1, b2, p, rfl, rfl⟩ | ⟨d, b1, b2, p, rfl, rfl⟩ |
    ⟨v, rfl, hidle, -⟩ | ⟨e, rfl, -, -, rfl⟩ | ⟨hf, rfl⟩
  · rw [bringsEvent_of_partOf (by simp [hp])]
    exact progress_of_unread (t := { s with inputs := ins, sum := v, ret := r }) hc rfl
  · rw [bringsEvent_of_partOf (by simp [hp])]
    exact progress_of_unread (t := { s with inputs := ins, crc := v, ret := r }) hc rfl
  · refine progress_of_unread hc ?_
    rw [build_eq]
    rfl
  · refine progress_of_unread hc ?_
    rw [build_eq]
    rfl
  · exact nomatch (hc.1.symm.trans hidle : true = false)
  · exact progress_of_advanced (advanced_takeEvent (s := consume { s with inputs := ins }) h hc e) _
  · obtain ⟨hbrings, hsome⟩ := bringsEvent_of_isFrame hf
    have harrive := progress_arrive h hc (encode i) ins
    rwa [hsome s.rxs, ← hbrings] at harrive

/-- A step of a committed parse, by what it ran. -/
theorem progress_step {s t : State} (h : StateInv s) (hc : Committed s) (hstep : step s = .next t) :
    Progress (answersRead s) s t := by
  rcases step_cases hstep with ⟨i, u, hf, hexec⟩ | ⟨bs, u, hf, rfl⟩ | ⟨u, hf, rfl⟩ <;> rw [answersRead, hf]
  · obtain ⟨⟨ins, rfl⟩, -⟩ := fetch_eq_run hf
    exact progress_exec h hc hexec
  · obtain ⟨rest, -, rfl⟩ := fetch_eq_arrival hf
    exact progress_arrive h hc bs rest
  · exact .inl rfl

/-! ## Runs -/

section Runs

variable {given : Nat → List Input} {r : Nat → State} (hrun : IsRun given r) (hinv : StateInv (r 0))
include hrun hinv

theorem stateInv_of_isRun (n : Nat) : StateInv (r n) := by
  induction n with
  | zero => exact hinv
  | succ n ih => exact stepKeepsTheInvariant _ _ ((stateInv_issue (given n) (r n)).mpr ih) (hrun n)

theorem progress_of_isRun {n : Nat} (hc : Committed (r n)) :
    Progress (answersRead (issue (given n) (r n))) (r n) (r (n + 1)) :=
  progress_step (s := issue (given n) (r n)) (stateInv_of_isRun hrun hinv n) hc (hrun n)

/-- A committed parse goes on with no more bytes left, or there is a state with no parse active. -/
theorem committed_or_inactive {n m : Nat} (hc : Committed (r n)) (hnm : n ≤ m) :
    (∃ l, n ≤ l ∧ (r l).rxSt.isActive = false) ∨ (Committed (r m) ∧ bytesLeft (r m) ≤ bytesLeft (r n)) := by
  induction m, hnm using Nat.le_induction with
  | base => exact .inr ⟨hc, Nat.le_refl _⟩
  | succ m hnm ih =>
    rcases ih with hend | ⟨hc', hle⟩
    · exact .inl hend
    rcases progress_of_isRun hrun hinv hc' with hend | ⟨hc'', hle', -⟩
    · exact .inl ⟨m + 1, by omega, hend⟩
    · exact .inr ⟨hc'', hle'.trans hle⟩

end Runs

end Sys2Proof.Machine
end

section
/-! PROOFS. Liveness under the transport's fairness (00_scope.md R10, 93_implementation_defined.md U12). -/

namespace Sys2Proof.Machine

/-- Settles O60, by induction on the bytes that are left: until the next read is answered they do not grow, and the
answer makes them fewer. -/
theorem fairTransportEndsTheParse : Obligations.FairTransportEndsTheParse := by
  intro given r hrun hfair hinv n hactive hscan
  have hc : Committed (r n) := ⟨hactive, hscan⟩
  clear hactive hscan
  induction hk : bytesLeft (r n) using Nat.strong_induction_on generalizing n with
  | _ k ih =>
    obtain ⟨m, hnm, hanswer⟩ := hfair n hc.1
    rcases committed_or_inactive hrun hinv hc hnm with hend | ⟨hc', hle⟩
    · exact hend
    rcases progress_of_isRun hrun hinv hc' with hend | ⟨hc'', -, hless⟩
    · exact ⟨m + 1, by omega, hend⟩
    obtain ⟨l, hml, hend⟩ := ih _ (by have := hless (hanswer hc'.1); omega) (m + 1) hc'' rfl
    exact ⟨l, by omega, hend⟩

end Sys2Proof.Machine
end

section
/-! SUPPORT. A frame row as it arrives and as a run takes it (R87, R96; notes/assumptions/3.md). -/

namespace Sys2Proof.Machine

/-- A frame begins with its kind, which selects its row (R87). -/
theorem encode_of_isFrame {i : Instr} (h : isFrame i = true) :
    ∃ (k : FrameKind) (q : List Byte), encode i = k.toByte :: q := by
  cases i
  case frameAD2H | frameAH2D | frameBD2H | frameBH2D => exact ⟨_, _, rfl⟩
  all_goals cases h

/-- A frame's own bytes decode to it. -/
theorem decodeFrame_encode {i : Instr} (h : isFrame i = true) (hwf : i.wf = true) :
    decodeFrame (encode i) = .instr i [] := by
  obtain ⟨k, r, hk⟩ := encode_of_isFrame h
  have hdecode := decodeOfEncodeIsTheInstruction i [] hwf
  rwa [List.append_nil, hk, decode_frameKind, ← decodeFrame_toByte, ← hk] at hdecode

/-- A frame row with a parse active takes the first byte where nothing was listed (R7, R66). -/
theorem exec_frame_of_active {i : Instr} {s : State} {b : Byte} {q : List Byte} (h : isFrame i = true)
    (ha : s.rxSt.isActive = true) (hrxs : s.rxs = []) (hi : encode i = b :: q) :
    exec i s = .next (withStream (q.map .byte) [] (takeByte b s)) := by
  have htake : takeByte b { s with rxs := q.map .byte } = { takeByte b s with rxs := q.map .byte, ret := s.ret } :=
    feed_withStream (q.map .byte) s.ret s [b]
  rw [exec_of_isFrame h, arrive_active ha (e := .byte b) (es := q.map .byte) (by rw [hrxs, hi]; rfl), takeEvent_byte,
    htake]
  rfl

/-- A run from a frame's arrival on takes its first n bytes, a byte a step, where the parse has use for them. -/
theorem run_frame {i : Instr} {s : State} {n : Nat} (h : isFrame i = true) (hwf : i.wf = true) (hin : s.inputs = [])
    (hrxs : s.rxs = []) (hpos : 1 ≤ n) (hn : n ≤ (encode i).length) (hreads : readsAll ((encode i).take n) s) :
    Host.Core.run core n { s with inputs := [.wire (encode i)] } =
      .next (withStream (((encode i).drop n).map .byte) [] (feed ((encode i).take n) s)) := by
  obtain ⟨k, q, hi⟩ := encode_of_isFrame h
  obtain ⟨m, rfl⟩ := Nat.exists_eq_add_of_le' hpos
  have hself : { s with inputs := [] } = s := by rw [← hin]
  have hdecode := decodeFrame_encode h hwf
  rw [hi, List.take_succ_cons, readsAll_cons] at hreads
  obtain ⟨hactive, hreads⟩ := hreads
  have hexec := exec_frame_of_active h hactive hrxs hi
  rw [hi] at hdecode hn ⊢
  have hstep : step { s with inputs := [.wire (k.toByte :: q)] } = exec i { s with inputs := [] } :=
    step_of_wire (s := { s with inputs := [.wire (k.toByte :: q)] }) rfl hdecode
  rw [hself, hexec] at hstep
  have hlen : (q.take m).length = m := List.length_take_of_le (Nat.le_of_succ_le_succ hn)
  have hfirst : (q.take m).map RxEvent.byte <+: q.map .byte := by
    rw [List.map_take]
    exact List.take_prefix _ _
  have hreads' : readsAll (q.take m) (withStream (q.map .byte) [] (takeByte k.toByte s)) := by simpa using hreads
  have hpulls := run_pulls hreads' (by simpa using hin) hfirst
  rw [hlen, execAll_rxBytes hreads' (.inr hfirst), withStream_rxs, withStream_ret, ite_self, hlen, feed_withStream,
    withStream_withStream] at hpulls
  rw [run_succ_of_next hstep, hpulls, List.drop_succ_cons, List.take_succ_cons, feed_cons, List.map_drop]
  rfl

end Sys2Proof.Machine
end

section
/-! PROOFS. Frames on the wire (30_encoding.md section 4). -/

namespace Sys2Proof.Machine

/-- Settles O43: the first event is what the arrival takes; a run takes the bytes that are read, and all of them are
unless the parse has ended. -/
theorem frameIsItsBytesOneByOne : Obligations.FrameIsItsBytesOneByOne := by
  intro s i h ha
  constructor
  · intro e es he
    rw [exec_of_isFrame h, ← arrive_eq_exec_instr ha he, arrive_active ha he]
    exact ⟨rfl, _, rfl, takeEvent_rxs e _⟩
  · intro hwf hrxs
    obtain ⟨k, q, hi⟩ := encode_of_isFrame h
    obtain ⟨n, hn, hreads, hend⟩ := exists_readsAll_take (encode i) { s with inputs := [] }
    have hpos : 1 ≤ n := by
      refine Nat.one_le_iff_ne_zero.mpr ?_
      rintro rfl
      exact nomatch ha.symm.trans (hend (by simp [hi]))
    refine ⟨n, _, hpos, hn, execAll_rxBytes hreads (.inl hrxs), ?_, hend⟩
    have hne : (encode i).take n ≠ [] := by simp [hi]; omega
    rw [run_frame (s := { s with inputs := [] }) h hwf rfl hrxs hpos hn hreads, if_neg hne]
    rfl

/-- After the start of a parse of its variant a run takes a whole device-to-host frame, and its trailer decides. -/
theorem run_startedFrame {v : Variant} {s : State} {i : Instr} {c b1 b2 : Byte} {p tr : List Byte}
    (h : isFrame i = true) (hwf : i.wf = true) (hi : encode i = acceptedMarker v :: b1 :: b2 :: lenByte p :: (p ++ tr))
    (hp : p.length ≤ 255) (htr : tr.length = trailerLength v) (hc : decodeCommand [c] = .instr (startInstr v) [])
    (hst : s.rxSt = .idle ∨ s.rxSt = .done) (hrxs : s.rxs = []) :
    ∃ t, Host.Core.run core (5 + trailerLength v + p.length)
        { s with inputs := [.command [c], .wire (encode i)] } = .next t ∧
      t.rxSt = .done ∧ t.rxs = [] ∧ t.inputs = [] ∧ t.rxChk = trailerHalf v tr ∧
      t.rxRes = verdict (trailerHalf v tr) (frameChecksum v s.params b1 b2 (lenByte p) p)
        (frameKnown v s.params b1 b2) := by
  have hlen : (encode i).length = 4 + trailerLength v + p.length := by
    rw [hi]
    simp [htr]
    omega
  have hstart : step { s with inputs := [.command [c], .wire (encode i)] } =
      .next { startParse v { s with inputs := [], ret := [] } with inputs := [.wire (encode i)] } :=
    (step_of_command (s := { s with inputs := [.command [c], .wire (encode i)] }) rfl hc).trans
      (exec_startInstr v (s := { s with inputs := [.wire (encode i)] }) (RxStage.isActive_eq_false_iff.mpr hst))
  obtain ⟨hreads, m, n, -, hfeed⟩ :=
    feed_frame v { s with inputs := [], ret := [] } b1 b2 (length_eq_toNat_lenByte hp) htr
  rw [← hi] at hreads hfeed
  have hrun := run_frame (s := startParse v { s with inputs := [], ret := [] }) h hwf rfl hrxs (n := (encode i).length)
    (by omega) (Nat.le_refl _) (by rwa [List.take_length])
  rw [List.take_length, List.drop_length, hfeed] at hrun
  rw [show 5 + trailerLength v + p.length = (encode i).length + 1 by omega, run_succ_of_next hstart]
  exact ⟨_, hrun, rfl, rfl, rfl, rfl, rfl⟩

/-- Settles O44: the row takes its direction byte; after a start every byte of the frame is read, and the trailer is
compared with the checksum of the others. -/
theorem deviceToHostFramesAreTaken : Obligations.DeviceToHostFramesAreTaken := by
  intro s b1 b2 chk crcLo crcHi p hrxs
  refine ⟨?rowA, ?rowB, fun hst hp => ⟨?runA, ?runB⟩⟩
  case rowA =>
    intro hst hv
    rw [exec_frame_of_active (b := acceptedMarker .a) rfl (by rw [hst]; rfl) hrxs rfl, takeByte_marker hst hv rfl]
    rfl
  case rowB =>
    intro hst hv
    rw [exec_frame_of_active (b := acceptedMarker .b) rfl (by rw [hst]; rfl) hrxs rfl, takeByte_marker hst hv rfl]
    rfl
  case runA =>
    obtain ⟨t, hrun, hdone, hnil, hin, hchk, hres⟩ := run_startedFrame (v := .a) (s := s) (c := 0x40#8)
      (i := .frameAD2H b1 b2 p chk) rfl (decide_eq_true (by omega)) rfl hp rfl rfl hst hrxs
    refine ⟨t, hrun, hdone, hnil, hin, hchk, hres.trans ?_⟩
    have hiff : trailerHalf .a [chk] = frameChecksum .a s.params b1 b2 (lenByte p) p ↔
        chk = sum8 (tagOf s.params.aTagPos b1 b2) p := setWidth16_injective.eq_iff
    simp only [verdict, ne_eq, hiff]
    rfl
  case runB =>
    obtain ⟨t, hrun, hdone, hnil, hin, hchk, hres⟩ := run_startedFrame (v := .b) (s := s) (c := 0x41#8)
      (i := .frameBD2H b1 b2 p crcLo crcHi) rfl (decide_eq_true (by omega)) rfl hp rfl rfl hst hrxs
    refine ⟨t, hrun, hdone, hnil, hin, ?_, ?_⟩
    · rw [hchk]
      exact toNat_joinHalf crcHi crcLo
    · rw [hres, hchk]
      rfl

/-- Settles O45: to a variant A scan the frame is noise, and its marker is not variant B's. -/
theorem hostToDeviceFramesAreNotTaken : Obligations.HostToDeviceFramesAreNotTaken := by
  intro s b1 b2 chk crcLo crcHi p hst hrxs
  have hactive : s.rxSt.isActive = true := by rw [hst]; rfl
  refine ⟨fun hv => ⟨?rowA, ?runA⟩, ?rowB⟩
  case rowA =>
    rw [exec_frame_of_active (b := markerA .h2d) rfl hactive hrxs rfl, takeByte_noise hst hv (by decide)]
    rfl
  case runA =>
    intro hp hmem
    obtain ⟨hreads, hfeed⟩ := feed_noise (s := { s with inputs := [] }) hst hv hmem
    have hlen : (encode (.frameAH2D b1 b2 p chk)).length = 5 + p.length := by
      simp [encode, encodeFrame]
      omega
    have hrun := run_frame (s := { s with inputs := [] }) (i := .frameAH2D b1 b2 p chk) rfl
      (decide_eq_true (by omega)) rfl hrxs (by rw [hlen]; omega) (Nat.le_refl _) (by rwa [List.take_length])
    rw [List.take_length, List.drop_length, hfeed, hlen] at hrun
    rw [hrun, List.map_nil, ← hrxs]
    rfl
  case rowB =>
    intro hv
    rw [exec_frame_of_active (b := markerB .h2d) rfl hactive hrxs rfl, takeByte_wrongDirection hst hv (by decide)]
    rfl

end Sys2Proof.Machine
end
